-- ==== Sys2Proof/Word.lean ====
section
/-! DEFINITION. The widths of TROC16_16: data words, bytes, register numbers, and the 20-bit register cell. -/

namespace Sys2Proof

/-- A 16-bit pattern, `Bits16` of 00_scope.md R5: the data of a register, an address, the program counter. -/
abbrev Word := BitVec 16

/-- One byte of memory (20_memory.md R40). -/
abbrev Byte := BitVec 8

/-- A register number: every register field has five bits (10_state.md R12). -/
abbrev Reg := BitVec 5

/-- Register 28, the Residue register (10_state.md R11). -/
def resReg : Reg := 28#5

/-- Register 31, the program counter (10_state.md R11, R19). -/
def pcReg : Reg := 31#5

/-- The four data types a register's type code names (10_state.md R13). -/
inductive Ty where
  | u   -- unsigned
  | s   -- signed two's complement
  | f   -- float, float type 1
  | f2  -- float2, fixed-point logarithm
  deriving DecidableEq, Repr, Inhabited

/-- The two float types, the only ones a float configuration function is asked for (10_state.md R17). -/
inductive FloatTy where
  | f
  | f2
  deriving DecidableEq, Repr, Inhabited

/-- The type code of a float type. -/
def FloatTy.ty : FloatTy → Ty
  | .f => .f
  | .f2 => .f2

/-- A register cell of 20 bits: data, type code, additional exponent bits (10_state.md R10). -/
structure Cell where
  v : Word
  t : Ty
  e : BitVec 2
  deriving DecidableEq, Repr, Inhabited

/-- The arithmetic operations `FArith` and the type rule distinguish (10_state.md R17, 42_alu16.md R106). -/
inductive ArithOp where
  | add
  | sub
  | mul
  | div
  | cmp
  deriving DecidableEq, Repr, Inhabited

end Sys2Proof
end

