-- ==== Sys2Proof/Config.lean ====
section
/-! DEFINITION. What an implementation fixes. `Params` are the parameters whose possible values the spec names: plain
data, held in State and never written by a step (entry 5). The opaque constants are the FREE VALUES: the spec states
no value for them, and nothing in Lean can evaluate one. -/

namespace Sys2Proof

/-- MISALIGNED_DATA (20_memory.md R46): what a 2-byte data access at an odd address does. -/
inductive MisalignedData where
  | halt
  | split
  deriving DecidableEq, Repr, Inhabited

/-- SUB_CARRY (42_alu16.md R109): what the unsigned residue of a subtraction is. -/
inductive SubCarry where
  | borrow
  | notBorrow
  deriving DecidableEq, Repr, Inhabited

/-- IMM24_TYPE_FROM (47_alu24.md R185): whose type code a 24-bit immediate constant takes. -/
inductive ImmTypeFrom where
  | s
  | d
  deriving DecidableEq, Repr, Inhabited

/-- The two kinds of `CmpResult` (42_alu16.md R112): the spec's default format, -1, 0 or +1 of type S; or any other
function of the two operands, which is then the free value `Config.cmpResult`. -/
inductive CmpFormat where
  | signed
  | other
  deriving DecidableEq, Repr, Inhabited

/-- A numbering that differs from the spec's default one, written as the exchanges of two numbers that lead from the
default to it, the first to be made first; `[]` is the default itself. Every one-to-one numbering is such a list, and
every such list is one-to-one (`renumber` and `unrenumber`, Decode.lean). -/
abbrev Renumbering (α : Type) := List (α × α)

/-- OPMAP16, OPMAP24, OPMAP32 (30_encoding.md R72 to R74): the opcode numbers, against the default maps. `op16` numbers
`op5`, `op24` numbers `op6 = opB ++ opA`, `op32` numbers `op9 = opC ++ opB ++ opA`, the scaling `y` within it. A
number the default map leaves unassigned stands for no instruction in the other map either (entry 17). -/
structure OpMaps where
  op16 : Renumbering (BitVec 5)
  op24 : Renumbering (BitVec 6)
  op32 : Renumbering (BitVec 9)
  deriving DecidableEq, Repr, Inhabited

/-- A range of addresses, `first` to `first + length - 1`, at which the platform has no byte (20_memory.md R49). -/
structure AbsentRange where
  first : Nat
  length : Nat
  deriving DecidableEq, Repr, Inhabited

/-- The implementation's parameters (00_scope.md R4, 92_eei_decisions.md). No step changes them. -/
structure Params where
  /-- HAS_DIV (R4): whether DIV and DIVI are implemented. -/
  hasDiv : Bool
  /-- MIXED_TYPES (42_alu16.md R106): whether arithmetic on two different types is implemented. -/
  mixedTypes : Bool
  misalignedData : MisalignedData
  subCarry : SubCarry
  imm24TypeFrom : ImmTypeFrom
  /-- BRANCH_SCALE (41_branch16.md R95). -/
  branchScale : Word
  /-- IREG_WIDTH (10_state.md R25), in bits. -/
  iregWidth : Nat
  /-- IFETCH_COHERENT (20_memory.md R53): whether a fetch sees earlier stores. -/
  ifetchCoherent : Bool
  /-- The holes of the launch memory map (20_memory.md R49). -/
  absent : List AbsentRange
  /-- RESET_PC (70_reset_and_hazards.md R320); "must be even". -/
  resetPc : Word
  /-- CmpResult (42_alu16.md R112; 93_implementation_defined.md U7). -/
  cmpResult : CmpFormat
  /-- OPMAP16, OPMAP24, OPMAP32 (30_encoding.md R72 to R74; 93_implementation_defined.md U21). -/
  opMaps : OpMaps
  /-- TYCODE (10_state.md R13): the type codes, against the default U, S, F, F2 = 0, 1, 2, 3. -/
  tyCode : Renumbering (BitVec 2)
  /-- IREG_MAP (10_state.md R24): the numbers of the internal registers less one, against the default IRA, CFG, IEN,
  IPEND, ISTATE = 0, 1, 2, 3, 4. -/
  iregMap : Renumbering (Fin 15)
  deriving DecidableEq, Repr, Inhabited

/-- The spec's defaults; HAS_DIV, IFETCH_COHERENT and the memory map are OPEN there, and their values here are a
DESIGN CHOICE (entries 5, 7, 8). No statement rests on these values. -/
def Config.defaultParams : Params where
  hasDiv := true
  mixedTypes := false
  misalignedData := .halt
  subCarry := .borrow
  imm24TypeFrom := .s
  branchScale := 1#16
  iregWidth := 16
  ifetchCoherent := true
  absent := []
  resetPc := 0x0000#16
  cmpResult := .signed
  opMaps := ⟨[], [], []⟩
  tyCode := []
  iregMap := []

/-- What a float configuration function returns for a cell whose type is already fixed: data and exponent bits. -/
abbrev FloatBits := Word × BitVec 2

/-- FREE VALUE (entry 4): the launch content of a byte nothing has written, by its address
(70_reset_and_hazards.md R322; 93_implementation_defined.md U1). -/
opaque Config.launchByte : Word → Byte

/-- FREE VALUE (entry 9): what the environment supplies at the `draw`-th PortIn of the run, here of port `k`
(10_state.md R26). -/
opaque Config.portIn (k : Fin 16) (draw : Nat) : Word

/-- FREE VALUE (entry 11): `FArith` (10_state.md R17): D's cell and, where there is one, the residue cell. -/
opaque Config.floatArith (op : ArithOp) (a b : Cell) : Cell × Option Cell

/-- FREE VALUE (entry 12): `MixedArith`, the result on operands of different type where MIXED_TYPES is true
(42_alu16.md R106; 93_implementation_defined.md U24). `mixedResult` (Flags.lean) keeps it to 10_state.md R14. -/
opaque Config.mixedArith (op : ArithOp) (a b : Cell) : Cell × Option Cell

/-- FREE VALUE (entry 11): `FloatImm` (10_state.md R17); `long` says that the immediate came from an extension. -/
opaque Config.floatImm (ty : FloatTy) (n16 : Word) (long : Bool) : FloatBits

/-- FREE VALUE (entry 11): `FloatFromMem` of one byte (10_state.md R17). -/
opaque Config.floatFromMem8 (ty : FloatTy) (bits : Byte) : FloatBits

/-- FREE VALUE (entry 11): `FloatFromMem` of two bytes (10_state.md R17). -/
opaque Config.floatFromMem16 (ty : FloatTy) (bits : Word) : FloatBits

/-- FREE VALUE (entry 11): `FloatToMem` to one byte (10_state.md R17). -/
opaque Config.floatToMem8 (c : Cell) : Byte

/-- FREE VALUE (entry 11): `FloatToMem` to two bytes (10_state.md R17). -/
opaque Config.floatToMem16 (c : Cell) : Word

/-- FREE VALUE (entry 11): `FloatShift` (10_state.md R17); the type of the result is the operand's. -/
opaque Config.floatShift (c : Cell) (n16 : Word) : FloatBits

/-- FREE VALUE (entry 11): the two tests of `FloatTest` (10_state.md R17): is zero, is negative. -/
opaque Config.floatTest (c : Cell) : Bool × Bool

/-- FREE VALUE (entry 19): `CmpResult` of the data of two operands of one integer type, where it is not the spec's
default (42_alu16.md R112; 93_implementation_defined.md U7). It is not given their exponent bits, which no integer
operation reads (10_state.md R14); `cmpCell` (Flags.lean) sees to those it writes. -/
opaque Config.cmpResult (ty : Ty) (a b : Word) : Cell

/-- FREE VALUE (entry 13): `DivResult` where the spec states none: a zero divisor, and -32768 / -1
(42_alu16.md R111; 93_implementation_defined.md U2): quotient and remainder. -/
opaque Config.divUnstated (ty : Ty) (dividend divisor : Word) : Word × Word

end Sys2Proof
end

