-- ==== Sys2Proof/Syntax.lean ====
section
/-! DEFINITION. The instructions: one constructor per row of opcode_table.json. A 16-bit instruction has its
mnemonic's name, a 24-bit one ends in `_24`, a 32-bit one in `_32`. -/

namespace Sys2Proof

/-- The immediate N of a 16-bit instruction (30_encoding.md R67): the five field bits, or the 16-bit extension. -/
inductive Imm16 where
  | short (n : BitVec 5)
  | long (n : Word)
  deriving DecidableEq, Repr

/-- The immediate N of a 24-bit instruction (30_encoding.md R69): the low four field bits of a short code, or twelve
bits of which the extension byte holds the high eight. -/
inductive Imm24 where
  | short (n : BitVec 4)
  | long (n : BitVec 12)
  deriving DecidableEq, Repr

/-- The leftmost field of a 24-bit load, store or LEA: an index register R or an offset N (45_ldst24.md R145). -/
inductive Index24 where
  | index (r : Reg)
  | offset (n : Imm24)
  deriving DecidableEq, Repr

/-- The leftmost field of a 32-bit load, store or LEA: an offset register T, or the low four bits of a short
immediate code (46_ldst32.md R165, 30_encoding.md R70). -/
inductive Offset32 where
  | reg (t : Reg)
  | imm (n : BitVec 4)
  deriving DecidableEq, Repr

/-- The address operand of a 24-bit load, store or LEA: base register S and index or offset. -/
structure Addr24 where
  s : Reg
  x : Index24
  deriving DecidableEq, Repr

/-- The address operand of a 32-bit load, store or LEA: base S, index R, the field `y - 1` of the scaling, offset. -/
structure Addr32 where
  s : Reg
  r : Reg
  y1 : BitVec 2
  x : Offset32
  deriving DecidableEq, Repr

/-- The instructions of TROC16_16 that have an encoding (30_encoding.md R72 to R74). -/
inductive Instr where
  -- 16-bit: ports and internal registers (40_io.md)
  | inn (d : Reg) (n : Imm16)
  | outn (d : Reg) (n : Imm16)
  -- 16-bit: control (41_branch16.md)
  | bsrn (d : Reg) (n : Imm16)
  | brzn (d : Reg) (n : Imm16)
  | brnzn (d : Reg) (n : Imm16)
  | brpn (d : Reg) (n : Imm16)
  | brmn (d : Reg) (n : Imm16)
  -- 16-bit: move, arithmetic and logic (42_alu16.md)
  | mov (d s : Reg)
  | add (d s : Reg)
  | sub (d s : Reg)
  | mul (d s : Reg)
  | div (d s : Reg)
  | cmp (d s : Reg)
  | and (d s : Reg)
  | or (d s : Reg)
  | xor (d s : Reg)
  | addi (d : Reg) (n : Imm16)
  | subi (d : Reg) (n : Imm16)
  | muli (d : Reg) (n : Imm16)
  | divi (d : Reg) (n : Imm16)
  | cmpi (d : Reg) (n : Imm16)
  | andi (d : Reg) (n : Imm16)
  | ori (d : Reg) (n : Imm16)
  | xori (d : Reg) (n : Imm16)
  -- 16-bit: load immediate, shift, extract (43_imm_shift_extract16.md)
  | ldui (d : Reg) (n : Imm16)
  | ldsi (d : Reg) (n : Imm16)
  | ldfi (d : Reg) (n : Imm16)
  | ldf2i (d : Reg) (n : Imm16)
  | shftn (d : Reg) (n : Imm16)
  | extctn (d : Reg) (n : Imm16)
  -- 16-bit: typed load and store (44_typed_ldst16.md)
  | ldtn (d : Reg) (n : Imm16)
  | sttn (d : Reg) (n : Imm16)
  -- 24-bit: loads, LEA, stores (45_ldst24.md)
  | ldu8_24 (d : Reg) (a : Addr24)
  | ldu16_24 (d : Reg) (a : Addr24)
  | lds8_24 (d : Reg) (a : Addr24)
  | lds16_24 (d : Reg) (a : Addr24)
  | fld8_24 (d : Reg) (a : Addr24)
  | fld16_24 (d : Reg) (a : Addr24)
  | f2ld8_24 (d : Reg) (a : Addr24)
  | f2ld16_24 (d : Reg) (a : Addr24)
  | lea8_24 (d : Reg) (a : Addr24)
  | lea16_24 (d : Reg) (a : Addr24)
  | st8_24 (d : Reg) (a : Addr24)
  | st16_24 (d : Reg) (a : Addr24)
  -- 24-bit: arithmetic and logic (47_alu24.md)
  | add_24 (d s r : Reg)
  | addi_24 (d s : Reg) (n : Imm24)
  | sub_24 (d s r : Reg)
  | subi_24 (d s : Reg) (n : Imm24)
  | mul_24 (d s r : Reg)
  | muli_24 (d s : Reg) (n : Imm24)
  | div_24 (d s r : Reg)
  | divi_24 (d s : Reg) (n : Imm24)
  | cmp_24 (d s r : Reg)
  | cmpi_24 (d s : Reg) (n : Imm24)
  | and_24 (d s r : Reg)
  | andi_24 (d s : Reg) (n : Imm24)
  | or_24 (d s r : Reg)
  | ori_24 (d s : Reg) (n : Imm24)
  | xor_24 (d s r : Reg)
  | xori_24 (d s : Reg) (n : Imm24)
  -- 32-bit: loads, LEA, stores (46_ldst32.md)
  | ldu8_32 (d : Reg) (a : Addr32)
  | ldu16_32 (d : Reg) (a : Addr32)
  | lds8_32 (d : Reg) (a : Addr32)
  | lds16_32 (d : Reg) (a : Addr32)
  | fld8_32 (d : Reg) (a : Addr32)
  | fld16_32 (d : Reg) (a : Addr32)
  | f2ld8_32 (d : Reg) (a : Addr32)
  | f2ld16_32 (d : Reg) (a : Addr32)
  | lea8_32 (d : Reg) (a : Addr32)
  | lea16_32 (d : Reg) (a : Addr32)
  | st8_32 (d : Reg) (a : Addr32)
  | st16_32 (d : Reg) (a : Addr32)
  deriving DecidableEq, Repr

end Sys2Proof
end

