-- ==== Sys2Proof/WellFormed.lean ====
section
/-! DEFINITION. Well-formed instructions: those an encoding stands for. A short immediate whose field bits are the
escape to another form is not well formed. Operand choices that HALT when executed (D = 31 and the like) are well
formed: they have an encoding, and their meaning is the halt (60_exceptions.md R294). -/

namespace Sys2Proof

/-- The short field `0b10000` of a 16-bit instruction is the escape to the extension (30_encoding.md R67). -/
def Imm16.wf : Imm16 → Bool
  | .short n => n != 0b10000#5
  | .long _ => true

/-- The four bits of a short 24- or 32-bit immediate: `0NNN` stands for `10NNN`, `11NN` for `111NN`; the bits
`10xx` would be the reserved code `110xx` (30_encoding.md R69, R70). -/
def shortCodeWf (n : BitVec 4) : Bool := n.extractLsb' 2 2 != 0b10#2

def Imm24.wf : Imm24 → Bool
  | .short n => shortCodeWf n
  | .long _ => true

def Index24.wf : Index24 → Bool
  | .index _ => true
  | .offset n => n.wf

def Offset32.wf : Offset32 → Bool
  | .reg _ => true
  | .imm n => shortCodeWf n

/-- Whether an encoding stands for the instruction (30_encoding.md R67, R69, R70). -/
def Instr.wf : Instr → Bool
  | .inn _ n | .outn _ n | .bsrn _ n | .brzn _ n | .brnzn _ n | .brpn _ n | .brmn _ n => n.wf
  | .mov _ _ | .add _ _ | .sub _ _ | .mul _ _ | .div _ _ | .cmp _ _ | .and _ _ | .or _ _ | .xor _ _ => true
  | .addi _ n | .subi _ n | .muli _ n | .divi _ n | .cmpi _ n | .andi _ n | .ori _ n | .xori _ n => n.wf
  | .ldui _ n | .ldsi _ n | .ldfi _ n | .ldf2i _ n | .shftn _ n | .extctn _ n | .ldtn _ n | .sttn _ n => n.wf
  | .ldu8_24 _ a | .ldu16_24 _ a | .lds8_24 _ a | .lds16_24 _ a | .fld8_24 _ a | .fld16_24 _ a => a.x.wf
  | .f2ld8_24 _ a | .f2ld16_24 _ a | .lea8_24 _ a | .lea16_24 _ a | .st8_24 _ a | .st16_24 _ a => a.x.wf
  | .add_24 _ _ _ | .sub_24 _ _ _ | .mul_24 _ _ _ | .div_24 _ _ _ => true
  | .cmp_24 _ _ _ | .and_24 _ _ _ | .or_24 _ _ _ | .xor_24 _ _ _ => true
  | .addi_24 _ _ n | .subi_24 _ _ n | .muli_24 _ _ n | .divi_24 _ _ n => n.wf
  | .cmpi_24 _ _ n | .andi_24 _ _ n | .ori_24 _ _ n | .xori_24 _ _ n => n.wf
  | .ldu8_32 _ a | .ldu16_32 _ a | .lds8_32 _ a | .lds16_32 _ a | .fld8_32 _ a | .fld16_32 _ a => a.x.wf
  | .f2ld8_32 _ a | .f2ld16_32 _ a | .lea8_32 _ a | .lea16_32 _ a | .st8_32 _ a | .st16_32 _ a => a.x.wf

/-- The same as a proposition. -/
abbrev Instr.WellFormed (i : Instr) : Prop := i.wf = true

end Sys2Proof
end

