-- ==== Sys2Proof/Decode.lean ====
section
/-! DEFINITION. The decoder (30_encoding.md R60 to R76) and, after it, the encoder. Both work on a WINDOW of 32 bits:
the four bytes that start at the instruction, the first in bits 7:0 (20_memory.md R43). Bits of the window that the
instruction does not have are ignored. -/

namespace Sys2Proof

/-- The window of a list of bytes, the first at the lowest address; a byte the list lacks reads as zero. -/
def windowOf (bs : List Byte) : BitVec 32 :=
  bs.getD 3 0#8 ++ bs.getD 2 0#8 ++ bs.getD 1 0#8 ++ bs.getD 0 0#8

/-! ## Renumbering: parameters that are numberings (92_eei_decisions.md D9, D11 to D13, D27) -/

/-- Two numbers exchanged. -/
def exchange {α : Type} [DecidableEq α] (p : α × α) (x : α) : α :=
  if x = p.1 then p.2 else if x = p.2 then p.1 else x

/-- The implementation's number for what the spec's default numbers `x`. -/
def renumber {α : Type} [DecidableEq α] (m : Renumbering α) (x : α) : α := m.foldl (fun y p => exchange p y) x

/-- The spec's default number for what the implementation numbers `x`. -/
def unrenumber {α : Type} [DecidableEq α] (m : Renumbering α) (x : α) : α := m.foldr exchange x

/-- Why a window is no instruction. -/
inductive DecodeError where
  /-- An unassigned opcode or an absent data size (30_encoding.md R75 a, b; 48_named_only.md R206). -/
  | unassigned
  /-- A reserved immediate code of an assigned opcode (30_encoding.md R76 c). -/
  | reservedImmediate
  deriving DecidableEq, Repr

/-- The three instruction sizes (30_encoding.md R60). -/
inductive Format where
  | b16
  | b24
  | b32
  deriving DecidableEq, Repr

/-- The length code in bits 1:0 (30_encoding.md R60). -/
def formatOf (w : BitVec 32) : Format :=
  if w.getLsbD 0 then .b16 else if w.getLsbD 1 then .b24 else .b32

/-- Register D, bits 10:6 in every format (30_encoding.md R61 to R63). -/
def fieldD (w : BitVec 32) : Reg := w.extractLsb' 6 5

/-- Register S, bits 15:11 in every format; in the 16-bit format the same bits are `top` (R61 to R63). -/
def fieldS (w : BitVec 32) : Reg := w.extractLsb' 11 5

/-- Bits 23:19: R or `top` of the 24-bit format, R of the 32-bit format (R62, R63). -/
def fieldR (w : BitVec 32) : Reg := w.extractLsb' 19 5

/-- Bits 31:27: T or `top` of the 32-bit format (R63). -/
def fieldT (w : BitVec 32) : Reg := w.extractLsb' 27 5

/-- `op5`, bits 5:1 (R61). -/
def fieldOp5 (w : BitVec 32) : BitVec 5 := w.extractLsb' 1 5

/-- `op6 = opB ++ opA`, bits 17:16 and 5:2 (R62). -/
def fieldOp6 (w : BitVec 32) : BitVec 6 := w.extractLsb' 16 2 ++ w.extractLsb' 2 4

/-- `opC`, bits 26:24 (R63). -/
def fieldOpC (w : BitVec 32) : BitVec 3 := w.extractLsb' 24 3

/-- `op9 = opC ++ opB ++ opA` (R63). -/
def fieldOp9 (w : BitVec 32) : BitVec 9 := fieldOpC w ++ fieldOp6 w

/-- `ie`, the immediate enable, bit 18 (R62, R63). -/
def fieldIe (w : BitVec 32) : Bool := w.getLsbD 18

/-- The 16-bit opcodes that take S; the other 23 take N (30_encoding.md R68). -/
def takesS16 (op5 : BitVec 5) : Bool := 7#5 ≤ op5 && op5 ≤ 15#5

/-- The 23 opcodes `TakesN16` (30_encoding.md R68). -/
def takesN16 (op5 : BitVec 5) : Bool := !takesS16 op5

/-- N of a 16-bit instruction: the field, or the half word that follows it (30_encoding.md R67). -/
def imm16Of (w : BitVec 32) : Imm16 :=
  if fieldS w = 0b10000#5 then .long (w.extractLsb' 16 16) else .short (fieldS w)

/-- N of a 24-bit instruction; none for the reserved codes `110xx` (30_encoding.md R69). -/
def imm24Of (w : BitVec 32) : Except DecodeError Imm24 :=
  if w.getLsbD 23 then
    if w.extractLsb' 21 2 = 0b10#2 then .error .reservedImmediate else .ok (.short (w.extractLsb' 19 4))
  else .ok (.long (w.extractLsb' 24 8 ++ w.extractLsb' 19 4))

/-- N of a 32-bit instruction; none for the codes `0NNNN` and `110xx` (30_encoding.md R70). -/
def imm32Of (w : BitVec 32) : Except DecodeError (BitVec 4) :=
  if w.getLsbD 31 && w.extractLsb' 29 2 != 0b10#2 then .ok (w.extractLsb' 27 4) else .error .reservedImmediate

/-- `OPMAP16` (30_encoding.md R72): all 32 codes are assigned. -/
def decode16 (w : BitVec 32) : Instr :=
  let d := fieldD w
  let s := fieldS w
  let n := imm16Of w
  match fieldOp5 w with
  | 0#5 => .inn d n
  | 1#5 => .outn d n
  | 2#5 => .bsrn d n
  | 3#5 => .brzn d n
  | 4#5 => .brnzn d n
  | 5#5 => .brpn d n
  | 6#5 => .brmn d n
  | 7#5 => .mov d s
  | 8#5 => .add d s
  | 9#5 => .sub d s
  | 10#5 => .mul d s
  | 11#5 => .div d s
  | 12#5 => .cmp d s
  | 13#5 => .and d s
  | 14#5 => .or d s
  | 15#5 => .xor d s
  | 16#5 => .addi d n
  | 17#5 => .subi d n
  | 18#5 => .muli d n
  | 19#5 => .divi d n
  | 20#5 => .cmpi d n
  | 21#5 => .andi d n
  | 22#5 => .ori d n
  | 23#5 => .xori d n
  | 24#5 => .ldui d n
  | 25#5 => .ldsi d n
  | 26#5 => .ldfi d n
  | 27#5 => .ldf2i d n
  | 28#5 => .shftn d n
  | 29#5 => .extctn d n
  | 30#5 => .ldtn d n
  | _ => .sttn d n  -- op5 = 31

/-- The index register or the offset of a 24-bit load, store or LEA (45_ldst24.md R145). -/
def index24Of (w : BitVec 32) : Except DecodeError Index24 :=
  if fieldIe w then (imm24Of w).map .offset else .ok (.index (fieldR w))

/-- A 24-bit load, store or LEA. -/
def access24 (mk : Reg → Addr24 → Instr) (w : BitVec 32) : Except DecodeError Instr :=
  (index24Of w).map fun x => mk (fieldD w) ⟨fieldS w, x⟩

/-- A 24-bit arithmetic or logical instruction: the register form or the immediate form, by `ie` (47_alu24.md R185). -/
def alu24 (reg : Reg → Reg → Reg → Instr) (imm : Reg → Reg → Imm24 → Instr) (w : BitVec 32) :
    Except DecodeError Instr :=
  if fieldIe w then (imm24Of w).map (imm (fieldD w) (fieldS w)) else .ok (reg (fieldD w) (fieldS w) (fieldR w))

/-- `OPMAP24` (30_encoding.md R73); the absent sizes and op6 >= 32 are unassigned (R75 a). -/
def decode24 (w : BitVec 32) : Except DecodeError Instr :=
  match fieldOp6 w with
  | 0#6 => access24 .ldu8_24 w
  | 1#6 => access24 .ldu16_24 w
  | 4#6 => access24 .lds8_24 w
  | 5#6 => access24 .lds16_24 w
  | 8#6 => access24 .fld8_24 w
  | 9#6 => access24 .fld16_24 w
  | 12#6 => access24 .f2ld8_24 w
  | 13#6 => access24 .f2ld16_24 w
  | 16#6 => access24 .lea8_24 w
  | 17#6 => access24 .lea16_24 w
  | 20#6 => access24 .st8_24 w
  | 21#6 => access24 .st16_24 w
  | 24#6 => alu24 .add_24 .addi_24 w
  | 25#6 => alu24 .sub_24 .subi_24 w
  | 26#6 => alu24 .mul_24 .muli_24 w
  | 27#6 => alu24 .div_24 .divi_24 w
  | 28#6 => alu24 .cmp_24 .cmpi_24 w
  | 29#6 => alu24 .and_24 .andi_24 w
  | 30#6 => alu24 .or_24 .ori_24 w
  | 31#6 => alu24 .xor_24 .xori_24 w
  | _ => .error .unassigned

/-- The offset register or the offset of a 32-bit load, store or LEA (46_ldst32.md R165). -/
def offset32Of (w : BitVec 32) : Except DecodeError Offset32 :=
  if fieldIe w then (imm32Of w).map .imm else .ok (.reg (fieldT w))

/-- A 32-bit load, store or LEA; `opC[2]` must be 0, `opC[1:0]` is `y - 1` (30_encoding.md R74, R75 b). -/
def access32 (mk : Reg → Addr32 → Instr) (w : BitVec 32) : Except DecodeError Instr :=
  if w.getLsbD 26 then .error .unassigned
  else (offset32Of w).map fun x => mk (fieldD w) ⟨fieldS w, fieldR w, w.extractLsb' 24 2, x⟩

/-- `OPMAP32` (30_encoding.md R74). -/
def decode32 (w : BitVec 32) : Except DecodeError Instr :=
  match fieldOp6 w with
  | 0#6 => access32 .ldu8_32 w
  | 1#6 => access32 .ldu16_32 w
  | 4#6 => access32 .lds8_32 w
  | 5#6 => access32 .lds16_32 w
  | 8#6 => access32 .fld8_32 w
  | 9#6 => access32 .fld16_32 w
  | 12#6 => access32 .f2ld8_32 w
  | 13#6 => access32 .f2ld16_32 w
  | 16#6 => access32 .lea8_32 w
  | 17#6 => access32 .lea16_32 w
  | 20#6 => access32 .st8_32 w
  | 21#6 => access32 .st16_32 w
  | _ => .error .unassigned

/-- The instruction in a window (30_encoding.md R66). -/
def decodeWindow (w : BitVec 32) : Except DecodeError Instr :=
  match formatOf w with
  | .b16 => .ok (decode16 w)
  | .b24 => decode24 w
  | .b32 => decode32 w

/-! ### Other opcode maps: the same window with its opcode renumbered -/

/-- The window with another `op5` (R61). -/
def withOp5 (w : BitVec 32) (o : BitVec 5) : BitVec 32 := w.extractLsb' 6 26 ++ o ++ w.extractLsb' 0 1

/-- The window with another `op6 = opB ++ opA` (R62). -/
def withOp6 (w : BitVec 32) (o : BitVec 6) : BitVec 32 :=
  w.extractLsb' 18 14 ++ o.extractLsb' 4 2 ++ w.extractLsb' 6 10 ++ o.extractLsb' 0 4 ++ w.extractLsb' 0 2

/-- The window with another `op9 = opC ++ opB ++ opA` (R63). -/
def withOp9 (w : BitVec 32) (o : BitVec 9) : BitVec 32 :=
  w.extractLsb' 27 5 ++ o.extractLsb' 6 3 ++ w.extractLsb' 18 6 ++ o.extractLsb' 4 2 ++ w.extractLsb' 6 10 ++
    o.extractLsb' 0 4 ++ w.extractLsb' 0 2

/-- The window that the default maps (R72 to R74) read as the maps `m` read `w`. -/
def OpMaps.toDefault (m : OpMaps) (w : BitVec 32) : BitVec 32 :=
  match formatOf w with
  | .b16 => withOp5 w (unrenumber m.op16 (fieldOp5 w))
  | .b24 => withOp6 w (unrenumber m.op24 (fieldOp6 w))
  | .b32 => withOp9 w (unrenumber m.op32 (fieldOp9 w))

/-- The window that the maps `m` read as the default maps read `w`. -/
def OpMaps.ofDefault (m : OpMaps) (w : BitVec 32) : BitVec 32 :=
  match formatOf w with
  | .b16 => withOp5 w (renumber m.op16 (fieldOp5 w))
  | .b24 => withOp6 w (renumber m.op24 (fieldOp6 w))
  | .b32 => withOp9 w (renumber m.op32 (fieldOp9 w))

/-- The instruction in a window, by the opcode maps `m` (R66). -/
def decodeWindowBy (m : OpMaps) (w : BitVec 32) : Except DecodeError Instr := decodeWindow (m.toDefault w)

/-- The instruction at the head of a list of bytes, by the opcode maps `m`. -/
def decodeBy (m : OpMaps) (bs : List Byte) : Except DecodeError Instr := decodeWindowBy m (windowOf bs)

/-- The instruction at the head of a list of bytes, by the default maps. -/
def decode (bs : List Byte) : Except DecodeError Instr := decodeWindow (windowOf bs)

/-- How many bytes the fetch of R66 reads, by the first half word and, in the 24-bit format, the third byte: the
extension half word or byte only where there is one, never the padding byte. `h` has the bytes read so far. -/
def fetchLength (h : BitVec 32) : Nat :=
  match formatOf h with
  | .b16 => if takesN16 (fieldOp5 h) && fieldS h == 0b10000#5 then 4 else 2
  | .b24 => if fieldIe h && !h.getLsbD 23 then 4 else 3
  | .b32 => 4

/-- `fetchLength` by the opcode maps `m`: `TakesN16` is a matter of the instruction, not of its number. -/
def fetchLengthBy (m : OpMaps) (h : BitVec 32) : Nat := fetchLength (m.toDefault h)

/-- The footprint of a 16-bit instruction that takes N (30_encoding.md R67). -/
def Imm16.ilen : Imm16 → Nat
  | .short _ => 2
  | .long _ => 4

/-- `ilen`, the bytes the instruction and its extension or padding occupy (30_encoding.md R65, R66). -/
def Instr.ilen : Instr → Nat
  | .inn _ n | .outn _ n | .bsrn _ n | .brzn _ n | .brnzn _ n | .brpn _ n | .brmn _ n => n.ilen
  | .mov _ _ | .add _ _ | .sub _ _ | .mul _ _ | .div _ _ | .cmp _ _ | .and _ _ | .or _ _ | .xor _ _ => 2
  | .addi _ n | .subi _ n | .muli _ n | .divi _ n | .cmpi _ n | .andi _ n | .ori _ n | .xori _ n => n.ilen
  | .ldui _ n | .ldsi _ n | .ldfi _ n | .ldf2i _ n | .shftn _ n | .extctn _ n | .ldtn _ n | .sttn _ n => n.ilen
  | .ldu8_24 _ _ | .ldu16_24 _ _ | .lds8_24 _ _ | .lds16_24 _ _ | .fld8_24 _ _ | .fld16_24 _ _ => 4
  | .f2ld8_24 _ _ | .f2ld16_24 _ _ | .lea8_24 _ _ | .lea16_24 _ _ | .st8_24 _ _ | .st16_24 _ _ => 4
  | .add_24 _ _ _ | .sub_24 _ _ _ | .mul_24 _ _ _ | .div_24 _ _ _ => 4
  | .cmp_24 _ _ _ | .and_24 _ _ _ | .or_24 _ _ _ | .xor_24 _ _ _ => 4
  | .addi_24 _ _ _ | .subi_24 _ _ _ | .muli_24 _ _ _ | .divi_24 _ _ _ => 4
  | .cmpi_24 _ _ _ | .andi_24 _ _ _ | .ori_24 _ _ _ | .xori_24 _ _ _ => 4
  | .ldu8_32 _ _ | .ldu16_32 _ _ | .lds8_32 _ _ | .lds16_32 _ _ | .fld8_32 _ _ | .fld16_32 _ _ => 4
  | .f2ld8_32 _ _ | .f2ld16_32 _ _ | .lea8_32 _ _ | .lea16_32 _ _ | .st8_32 _ _ | .st16_32 _ _ => 4

/-! The encoder, from the same pictures (30_encoding.md R61 to R63) and maps (R72 to R74). -/

/-- `ext top d op5 1`: the 16-bit format with the half word above it (R61). -/
def layout16 (op5 : BitVec 5) (d top : Reg) (ext : Word) : BitVec 32 :=
  ext ++ top ++ d ++ op5 ++ 1#1

/-- `ext top ie opB s d opA 10`: the 24-bit format with the byte above it (R62). -/
def layout24 (op6 : BitVec 6) (d s : Reg) (ie : BitVec 1) (top : Reg) (ext : Byte) : BitVec 32 :=
  ext ++ top ++ ie ++ op6.extractLsb' 4 2 ++ s ++ d ++ op6.extractLsb' 0 4 ++ 0b10#2

/-- `top opC r ie opB s d opA 00`: the 32-bit format (R63). -/
def layout32 (op6 : BitVec 6) (opC : BitVec 3) (d s r : Reg) (ie : BitVec 1) (top : Reg) : BitVec 32 :=
  top ++ opC ++ r ++ ie ++ op6.extractLsb' 4 2 ++ s ++ d ++ op6.extractLsb' 0 4 ++ 0b00#2

/-- A 16-bit instruction that takes S (R68). -/
def encodeS16 (op5 : BitVec 5) (d s : Reg) : BitVec 32 := layout16 op5 d s 0#16

/-- A 16-bit instruction that takes N (R67). -/
def encodeN16 (op5 : BitVec 5) (d : Reg) : Imm16 → BitVec 32
  | .short n => layout16 op5 d n 0#16
  | .long n => layout16 op5 d 0b10000#5 n

/-- A 24-bit instruction with register R (R62). -/
def encodeR24 (op6 : BitVec 6) (d s r : Reg) : BitVec 32 := layout24 op6 d s 0#1 r 0#8

/-- A 24-bit instruction with immediate N (R69). -/
def encodeN24 (op6 : BitVec 6) (d s : Reg) : Imm24 → BitVec 32
  | .short n => layout24 op6 d s 1#1 (1#1 ++ n) 0#8
  | .long n => layout24 op6 d s 1#1 (0#1 ++ n.extractLsb' 0 4) (n.extractLsb' 4 8)

/-- A 24-bit load, store or LEA. -/
def encodeAccess24 (op6 : BitVec 6) (d : Reg) (a : Addr24) : BitVec 32 :=
  match a.x with
  | .index r => encodeR24 op6 d a.s r
  | .offset n => encodeN24 op6 d a.s n

/-- A 32-bit load, store or LEA (R63, R70, R74). -/
def encodeAccess32 (op6 : BitVec 6) (d : Reg) (a : Addr32) : BitVec 32 :=
  match a.x with
  | .reg t => layout32 op6 (0#1 ++ a.y1) d a.s a.r 0#1 t
  | .imm n => layout32 op6 (0#1 ++ a.y1) d a.s a.r 1#1 (1#1 ++ n)

/-- The window of an instruction: its bits, zero above them and in the padding byte. -/
def Instr.window : Instr → BitVec 32
  | .inn d n => encodeN16 0#5 d n
  | .outn d n => encodeN16 1#5 d n
  | .bsrn d n => encodeN16 2#5 d n
  | .brzn d n => encodeN16 3#5 d n
  | .brnzn d n => encodeN16 4#5 d n
  | .brpn d n => encodeN16 5#5 d n
  | .brmn d n => encodeN16 6#5 d n
  | .mov d s => encodeS16 7#5 d s
  | .add d s => encodeS16 8#5 d s
  | .sub d s => encodeS16 9#5 d s
  | .mul d s => encodeS16 10#5 d s
  | .div d s => encodeS16 11#5 d s
  | .cmp d s => encodeS16 12#5 d s
  | .and d s => encodeS16 13#5 d s
  | .or d s => encodeS16 14#5 d s
  | .xor d s => encodeS16 15#5 d s
  | .addi d n => encodeN16 16#5 d n
  | .subi d n => encodeN16 17#5 d n
  | .muli d n => encodeN16 18#5 d n
  | .divi d n => encodeN16 19#5 d n
  | .cmpi d n => encodeN16 20#5 d n
  | .andi d n => encodeN16 21#5 d n
  | .ori d n => encodeN16 22#5 d n
  | .xori d n => encodeN16 23#5 d n
  | .ldui d n => encodeN16 24#5 d n
  | .ldsi d n => encodeN16 25#5 d n
  | .ldfi d n => encodeN16 26#5 d n
  | .ldf2i d n => encodeN16 27#5 d n
  | .shftn d n => encodeN16 28#5 d n
  | .extctn d n => encodeN16 29#5 d n
  | .ldtn d n => encodeN16 30#5 d n
  | .sttn d n => encodeN16 31#5 d n
  | .ldu8_24 d a => encodeAccess24 0#6 d a
  | .ldu16_24 d a => encodeAccess24 1#6 d a
  | .lds8_24 d a => encodeAccess24 4#6 d a
  | .lds16_24 d a => encodeAccess24 5#6 d a
  | .fld8_24 d a => encodeAccess24 8#6 d a
  | .fld16_24 d a => encodeAccess24 9#6 d a
  | .f2ld8_24 d a => encodeAccess24 12#6 d a
  | .f2ld16_24 d a => encodeAccess24 13#6 d a
  | .lea8_24 d a => encodeAccess24 16#6 d a
  | .lea16_24 d a => encodeAccess24 17#6 d a
  | .st8_24 d a => encodeAccess24 20#6 d a
  | .st16_24 d a => encodeAccess24 21#6 d a
  | .add_24 d s r => encodeR24 24#6 d s r
  | .addi_24 d s n => encodeN24 24#6 d s n
  | .sub_24 d s r => encodeR24 25#6 d s r
  | .subi_24 d s n => encodeN24 25#6 d s n
  | .mul_24 d s r => encodeR24 26#6 d s r
  | .muli_24 d s n => encodeN24 26#6 d s n
  | .div_24 d s r => encodeR24 27#6 d s r
  | .divi_24 d s n => encodeN24 27#6 d s n
  | .cmp_24 d s r => encodeR24 28#6 d s r
  | .cmpi_24 d s n => encodeN24 28#6 d s n
  | .and_24 d s r => encodeR24 29#6 d s r
  | .andi_24 d s n => encodeN24 29#6 d s n
  | .or_24 d s r => encodeR24 30#6 d s r
  | .ori_24 d s n => encodeN24 30#6 d s n
  | .xor_24 d s r => encodeR24 31#6 d s r
  | .xori_24 d s n => encodeN24 31#6 d s n
  | .ldu8_32 d a => encodeAccess32 0#6 d a
  | .ldu16_32 d a => encodeAccess32 1#6 d a
  | .lds8_32 d a => encodeAccess32 4#6 d a
  | .lds16_32 d a => encodeAccess32 5#6 d a
  | .fld8_32 d a => encodeAccess32 8#6 d a
  | .fld16_32 d a => encodeAccess32 9#6 d a
  | .f2ld8_32 d a => encodeAccess32 12#6 d a
  | .f2ld16_32 d a => encodeAccess32 13#6 d a
  | .lea8_32 d a => encodeAccess32 16#6 d a
  | .lea16_32 d a => encodeAccess32 17#6 d a
  | .st8_32 d a => encodeAccess32 20#6 d a
  | .st16_32 d a => encodeAccess32 21#6 d a

/-- The four bytes of a window, the lowest address first (20_memory.md R43). -/
def windowBytes (w : BitVec 32) : List Byte :=
  [w.extractLsb' 0 8, w.extractLsb' 8 8, w.extractLsb' 16 8, w.extractLsb' 24 8]

/-- The bytes of an instruction in memory, the lowest address first; a padding byte is written as zero (R65). -/
def encode (i : Instr) : List Byte := (windowBytes i.window).take i.ilen

/-- The bytes of an instruction by the opcode maps `m`. -/
def encodeBy (m : OpMaps) (i : Instr) : List Byte := (windowBytes (m.ofDefault i.window)).take i.ilen

/-- The window whose low `nbits` bits are those of `w`, zero above them: an instruction as the opcode table numbers
its bits. -/
def tableWindow (nbits w : Nat) : BitVec 32 := BitVec.ofNat 32 (w % 2 ^ nbits)

/-- What the decoder reads from the bytes of an instruction whose bits are `w`. -/
def decodeTableWord (nbits w : Nat) : Option Instr := (decode (windowBytes (tableWindow nbits w))).toOption

end Sys2Proof
end

