-- ==== Sys2Proof/Machine/State.lean ====
section
/-! DEFINITION. The machine's state, the reasons a step can stop, and the state right after reset. -/

namespace Sys2Proof.Machine

/-- The labels of the halt (60_exceptions.md R292). The hardware stores none of them. -/
inductive HaltCause where
  | misalignedFetch
  | unimplementedInstruction
  | invalidOperand
  | misalignedData
  deriving DecidableEq, Repr

/-- Why the machine stops outside anything the spec describes. -/
inductive Fault where
  /-- Raised by the fetch and by every load and store on a byte of the platform's memory map that does not exist
  (20_memory.md R49, "has no defined result"). SAFE: nothing is claimed of what the hardware does there. -/
  | absentByte (a : Word)
  deriving DecidableEq, Repr

/-- Why an instruction is given no meaning. -/
inductive Refusal where
  /-- Raised by `exec` for an instruction that has no meaning in the model yet. SAFE. No arm uses it. -/
  | notModelled (mnemonic : String)
  /-- Raised by ADD, SUB, MUL, DIV and their I forms, 16- and 24-bit, with D = 28: the Residue register would be
  written twice and the spec says neither order ("This spec gives such an instruction no meaning", 10_state.md R30;
  93_implementation_defined.md U4). SAFE: nothing is claimed of what the hardware does there (entry 14). -/
  | residueWrittenTwice
  deriving DecidableEq, Repr

/-- What a step answers. -/
abbrev Result (σ : Type) := Host.Outcome σ Fault Refusal

/-- One output to a port: `PortOut(port, value)` (10_state.md R26). -/
structure PortWrite where
  port : Fin 16
  value : Word
  deriving DecidableEq, Repr

/-- Memory: the bytes that have been written or loaded, in one canonical form (`Memory.wf`, Ops.lean). -/
abbrev Memory := List Host.Cell

/-- Everything the spec gives the machine, and five fields of the model's own: `inputDraws`, `haltCause`,
`fetchImage` and `params` (and `outputs`, which records what left the machine). -/
structure State where
  /-- x[0] .. x[30]; register 31 is `pc` (10_state.md R10, R19). -/
  regs : Vector Cell 31
  /-- Register 31, the program counter, a byte address (10_state.md R19). -/
  pc : Word
  /-- The PC is frozen (10_state.md R28). -/
  halted : Bool
  /-- The internal registers: IRA, CFG, IEN, IPEND, ISTATE at places 0 to 4, ten unassigned at 5 to 14; IREG_MAP says
  which number k of `IReg[k]` each has (10_state.md R24). -/
  iregs : Vector Word 15
  /-- `Mem` (20_memory.md R40). -/
  mem : Memory
  /-- The outputs to ports in program order, the oldest first (10_state.md R26). -/
  outputs : List PortWrite
  /-- The MODEL's own: how many PortIn values have been drawn (entry 9). -/
  inputDraws : Nat
  /-- The MODEL's own: the label of the halt, none while the machine runs (entry 6). -/
  haltCause : Option HaltCause
  /-- The MODEL's own: the launch's bytes, which an incoherent fetch reads (20_memory.md R53, entry 8). -/
  fetchImage : Memory
  /-- The MODEL's own: the implementation's parameters, changed by no step (entry 5). -/
  params : Params
  deriving DecidableEq, Repr

/-- The value a register of unspecified reset value holds after reset in the model (R321; entry 1). -/
def resetCell : Cell := ⟨0#16, .u, 0#2⟩

/-- The machine with parameters `p` right after reset (70_reset_and_hazards.md R320 to R322). -/
def State.resetWith (p : Params) : State where
  regs := Vector.replicate 31 resetCell
  pc := p.resetPc
  halted := false
  iregs := Vector.replicate 15 0#16
  mem := []
  outputs := []
  inputDraws := 0
  haltCause := none
  fetchImage := []
  params := p

/-- The machine with the spec's default parameters right after reset. -/
def State.reset : State := State.resetWith Config.defaultParams

end Sys2Proof.Machine
end

