-- ==== Sys2Proof/Machine/Ops.lean ====
section
/-! DEFINITION. The named operations over memory, registers, ports and the halt; every meaning is written with them.
An operation that can stop answers in `Except Stop`; `settle` turns that into the outcome of a step. -/

namespace Sys2Proof.Machine

/-! ## Memory -/

/-- The form of a memory: addresses strictly rising and below 2^16. (An unlisted address holds no byte of its own,
so no entry can equal what an unlisted address holds; entry 4.) -/
def Memory.wfFrom : Nat → Memory → Bool
  | _, [] => true
  | lo, (a, _) :: m => decide (lo ≤ a) && decide (a < 2 ^ 16) && Memory.wfFrom (a + 1) m

/-- The canonical form. -/
def Memory.wf (m : Memory) : Bool := Memory.wfFrom 0 m

/-- The listed byte at an address, if there is one. -/
def Memory.find : Memory → Nat → Option Byte
  | [], _ => none
  | (a, b) :: m, k => if k = a then some b else Memory.find m k

/-- List a byte at an address, keeping the canonical form. -/
def Memory.insert : Memory → Nat → Byte → Memory
  | [], k, v => [(k, v)]
  | (a, b) :: m, k, v =>
    if k < a then (k, v) :: (a, b) :: m else if k = a then (k, v) :: m else (a, b) :: Memory.insert m k v

/-- One byte: the listed one, or the launch's unknown byte where nothing is listed (70_reset_and_hazards.md R322;
93_implementation_defined.md U1; entry 4). -/
def Memory.read (m : Memory) (a : Word) : Byte := (m.find a.toNat).getD (Config.launchByte a)

/-- Two bytes, little-endian, the second at the wrapped next address (20_memory.md R43, R50). -/
def Memory.read16 (m : Memory) (a : Word) : Word := m.read (a + 1#16) ++ m.read a

/-- Store one byte. -/
def Memory.write (m : Memory) (a : Word) (b : Byte) : Memory := m.insert a.toNat b

/-- Store two bytes, little-endian (20_memory.md R43). -/
def Memory.write16 (m : Memory) (a : Word) (v : Word) : Memory :=
  (m.write a (v.extractLsb' 0 8)).write (a + 1#16) (v.extractLsb' 8 8)

/-! ## Stopping -/

/-- The ways an operation stops short. -/
inductive Stop where
  | halt (c : HaltCause)
  | fault (r : Fault)
  | refuse (r : Refusal)
  deriving DecidableEq, Repr

/-- `raise Halt(c)`: TAKING THE MACHINE'S ONE EXCEPTION (60_exceptions.md R290): nothing is written, `pc` keeps the
address of the offending instruction, `halted` becomes true. Nothing is saved and control goes nowhere (R299). -/
def State.haltWith (s : State) (c : HaltCause) : State := { s with halted := true, haltCause := some c }

/-- The outcome of an instruction begun in `s`: a halt is a next state, `s` itself halted (R290). -/
def settle (s : State) : Except Stop State → Result State
  | .ok t => .next t
  | .error (.halt c) => .next (s.haltWith c)
  | .error (.fault r) => .fault r
  | .error (.refuse r) => .refused r

/-- The environment's reset of a machine that has run (70_reset_and_hazards.md R320 to R322): the only way out of a
halt (60_exceptions.md R301). Memory is not cleared. There is no return from a trap to stand beside it (R301). -/
def State.resetEvent (s : State) : State :=
  { s with regs := State.reset.regs, pc := s.params.resetPc, halted := false, iregs := State.reset.iregs,
           outputs := [], haltCause := none }

/-! ## Registers -/

/-- `Reg(i)`, the operand read (00_scope.md R6, 10_state.md R19): register 31 reads as `(npc, U, 00)`. -/
def State.readReg (s : State) (npc : Word) (r : Reg) : Cell :=
  if h : r.toNat < 31 then s.regs[r.toNat] else ⟨npc, .u, 0#2⟩

/-- The register file after a write to x[0] .. x[30]; number 31 has no cell. -/
def setCell (rs : Vector Cell 31) (r : Reg) (c : Cell) : Vector Cell 31 :=
  if h : r.toNat < 31 then rs.set r.toNat c else rs

/-- `x[i] <- c` for i <= 30 (00_scope.md R6). -/
def State.writeReg (s : State) (r : Reg) (c : Cell) : State := { s with regs := setCell s.regs r c }

/-- `pc <- v` (00_scope.md R6). -/
def State.setPc (s : State) (v : Word) : State := { s with pc := v }

/-- A write to D that is a jump where D = 31, the tag dropped (10_state.md R19, R21); `npc` otherwise (R20). -/
def State.writeOrJump (s : State) (d : Reg) (c : Cell) (npc : Word) : State :=
  if d = pcReg then s.setPc c.v else (s.writeReg d c).setPc npc

/-- A write to D that is blocked where D = 31 ("If D = PC block the write to D", 10_state.md R21). -/
def State.writeOrBlock (s : State) (d : Reg) (c : Cell) (npc : Word) : State :=
  if d = pcReg then s.setPc npc else (s.writeReg d c).setPc npc

/-- The side-effect write of the Residue register, where there is one (10_state.md R16, 42_alu16.md R106). -/
def State.writeRes (s : State) : Option Cell → State
  | some c => s.writeReg resReg c
  | none => s

/-- D = 31 in an instruction that 10_state.md R21 does not allow it in. -/
def rejectPc (d : Reg) : Except Stop Unit := if d = pcReg then .error (.halt .invalidOperand) else .ok ()

/-- D = 28 in an instruction that also writes the Residue register (10_state.md R30; entry 14). -/
def rejectRes (d : Reg) : Except Stop Unit := if d = resReg then .error (.refuse .residueWrittenTwice) else .ok ()

/-! ## Data accesses -/

/-- Whether the platform has a byte at an address (20_memory.md R49). -/
def Params.present (p : Params) (a : Word) : Bool :=
  !p.absent.any fun r => decide (r.first ≤ a.toNat) && decide (a.toNat < r.first + r.length)

/-- An access to a byte of the memory map (20_memory.md R49; entry 7). -/
def requireByte (p : Params) (a : Word) : Except Stop Unit :=
  if Params.present p a then .ok () else .error (.fault (.absentByte a))

/-- MISALIGNED_DATA (20_memory.md R46): checked before any byte is moved. -/
def requireAligned (p : Params) (a : Word) : Except Stop Unit :=
  if a.getLsbD 0 then
    match p.misalignedData with
    | .halt => .error (.halt .misalignedData)
    | .split => .ok ()
  else .ok ()

/-- `MemRead(a, 1)` (20_memory.md R43). -/
def State.load8 (s : State) (a : Word) : Except Stop Byte := do
  requireByte s.params a
  return s.mem.read a

/-- `MemRead(a, 2)` of a data access: alignment, then the two bytes (20_memory.md R43, R46). -/
def State.load16 (s : State) (a : Word) : Except Stop Word := do
  requireAligned s.params a
  requireByte s.params a
  requireByte s.params (a + 1#16)
  return s.mem.read16 a

/-- `MemWrite(a, 1, b)` (20_memory.md R43). -/
def State.store8 (s : State) (a : Word) (b : Byte) : Except Stop State := do
  requireByte s.params a
  return { s with mem := s.mem.write a b }

/-- `MemWrite(a, 2, v)` of a data access: alignment, then the two bytes (20_memory.md R43, R46). -/
def State.store16 (s : State) (a v : Word) : Except Stop State := do
  requireAligned s.params a
  requireByte s.params a
  requireByte s.params (a + 1#16)
  return { s with mem := s.mem.write16 a v }

/-! ## Ports and internal registers -/

/-- The value `PortIn(k)` supplies now, and the machine after the draw (10_state.md R26; entry 9). -/
def State.portIn (s : State) (k : Fin 16) : Word × State :=
  (Config.portIn k s.inputDraws, { s with inputDraws := s.inputDraws + 1 })

/-- `PortOut(k, v)` (10_state.md R26). -/
def State.portOut (s : State) (k : Fin 16) (v : Word) : State := { s with outputs := s.outputs ++ [⟨k, v⟩] }

/-- The value of output port `k`: that of the last output to it, none before the first (10_state.md section 8). -/
def State.outputPort (s : State) (k : Fin 16) : Option Word :=
  (s.outputs.reverse.find? fun o => o.port = k).map PortWrite.value

/-- Where State holds `IReg[k+1]`, by IREG_MAP (10_state.md R24). -/
def Params.iregPlace (p : Params) (k : Fin 15) : Fin 15 := unrenumber p.iregMap k

/-- `zext_16(IReg[k+1])` (40_io.md R90). -/
def State.readIreg (s : State) (k : Fin 15) : Word := s.iregs[Params.iregPlace s.params k]

/-- `IReg[k+1] <- v[IREG_WIDTH-1:0]` (40_io.md R91). -/
def State.writeIreg (s : State) (k : Fin 15) (v : Word) : State :=
  { s with iregs := s.iregs.set (Params.iregPlace s.params k) (BitVec.ofNat 16 (v.toNat % 2 ^ s.params.iregWidth)) }

end Sys2Proof.Machine
end

