-- ==== Sys2Proof/Machine/Operands.lean ====
section
/-! DEFINITION. Every operand form: immediates and the cells made of them, the next-instruction address, effective
addresses, and what N names in INN and OUTN. -/

namespace Sys2Proof.Machine

/-- `npc`, the address of the next sequential instruction (00_scope.md R6, 10_state.md R19, R20). -/
def npcOf (i : Instr) (s : State) : Word := s.pc + BitVec.ofNat 16 i.ilen

/-- `N16` of a 16-bit instruction (30_encoding.md R67). -/
def n16Of16 : Imm16 → Word
  | .short n => n.signExtend 16
  | .long n => n

/-- Whether the immediate of a 16-bit instruction was written in its long form (10_state.md R17, `FloatImm`). -/
def isLong16 : Imm16 → Bool
  | .short _ => false
  | .long _ => true

/-- `N16` of a 24-bit instruction (30_encoding.md R69). -/
def n16Of24 : Imm24 → Word
  | .short n => n.signExtend 16
  | .long n => n.signExtend 16

/-- `long = (top[4] = 0)` of a 24-bit instruction (47_alu24.md R185). -/
def isLong24 : Imm24 → Bool
  | .short _ => false
  | .long _ => true

/-- `N16` of a 32-bit instruction (30_encoding.md R70). -/
def n16Of32 (n : BitVec 4) : Word := n.signExtend 16

/-- A cell of a float type from what a float configuration function returns (10_state.md R17). -/
def floatCell (ty : FloatTy) (b : FloatBits) : Cell := ⟨b.1, ty.ty, b.2⟩

/-- `ImmCell(t)`: a constant as an operand of type `t` (30_encoding.md R71, 42_alu16.md R105). -/
def immCell (t : Ty) (n16 : Word) (long : Bool) : Cell :=
  match t with
  | .u => ⟨n16, .u, 0#2⟩
  | .s => ⟨n16, .s, 0#2⟩
  | .f => floatCell .f (Config.floatImm .f n16 long)
  | .f2 => floatCell .f2 (Config.floatImm .f2 n16 long)

/-- The index: `Reg(r).v`, zero for the PC (45_ldst24.md R145, 10_state.md R22). -/
def indexValue (s : State) (npc : Word) (r : Reg) : Word := if r = pcReg then 0#16 else (s.readReg npc r).v

/-- EA of the 24-bit format; `ds` is the data size in bytes (45_ldst24.md R145). -/
def ea24 (s : State) (npc : Word) (ds : Word) (a : Addr24) : Word :=
  match a.x with
  | .index r => (s.readReg npc a.s).v + indexValue s npc r * ds
  | .offset n => (s.readReg npc a.s).v + n16Of24 n

/-- `y`, the scaling of the 32-bit format: the field plus 1 (46_ldst32.md R165). -/
def scaleOf (y1 : BitVec 2) : Word := y1.setWidth 16 + 1#16

/-- The offset of the 32-bit format; the PC is no offset register (46_ldst32.md R165, 10_state.md R22). -/
def offsetValue32 (s : State) (npc : Word) : Offset32 → Except Stop Word
  | .reg t => if t = pcReg then .error (.halt .invalidOperand) else .ok (s.readReg npc t).v
  | .imm n => .ok (n16Of32 n)

/-- EA of the 32-bit format (46_ldst32.md R165). -/
def ea32 (s : State) (npc : Word) (ds : Word) (a : Addr32) : Except Stop Word := do
  let off ← offsetValue32 s npc a.x
  return (s.readReg npc a.s).v + indexValue s npc a.r * ds * scaleOf a.y1 + off

/-- What N names in INN and OUTN (40_io.md R90, R91): the `k`-th port, internal register `k + 1`, or a memory
address. -/
inductive IoTarget where
  | port (k : Fin 16)
  | ireg (k : Fin 15)
  | memory (a : Word)
  deriving DecidableEq, Repr

/-- -15 <= N <= 15 is a port or an internal register, everything else memory (40_io.md R90, R91). -/
def ioTarget (n16 : Word) : IoTarget :=
  if hp : 0 ≤ n16.toInt ∧ n16.toInt ≤ 15 then .port ⟨n16.toInt.toNat, by omega⟩
  else if hi : -15 ≤ n16.toInt ∧ n16.toInt ≤ -1 then .ireg ⟨(-n16.toInt).toNat - 1, by omega⟩
  else .memory n16

/-- The target of a branch (41_branch16.md R95). -/
def branchTarget (p : Params) (npc n16 : Word) : Word := npc + p.branchScale * n16

/-- The spec's default type codes (10_state.md R13). -/
def defaultTyCode : Ty → BitVec 2
  | .u => 0#2
  | .s => 1#2
  | .f => 2#2
  | .f2 => 3#2

/-- The type a default type code names (10_state.md R13). -/
def tyOfDefaultCode (b : BitVec 2) : Ty :=
  if b = 0#2 then .u else if b = 1#2 then .s else if b = 2#2 then .f else .f2

/-- The type code of a type, by TYCODE (10_state.md R13). -/
def bitsOfTy (p : Params) (t : Ty) : BitVec 2 := renumber p.tyCode (defaultTyCode t)

/-- The type a type code names, by TYCODE (10_state.md R13). -/
def tyOfBits (p : Params) (b : BitVec 2) : Ty := tyOfDefaultCode (unrenumber p.tyCode b)

/-- The tag half word of a typed store: `zext_16(e ++ t)` (44_typed_ldst16.md R141, R142). -/
def tagHalf (p : Params) (c : Cell) : Word := (c.e ++ bitsOfTy p c.t).setWidth 16

/-- The cell of the two half words of typed data: the type code in bits 1:0, the exponent bits in bits 3:2 of the second,
whose bits 15:4 are ignored (44_typed_ldst16.md R140, R142). -/
def cellOfHalves (p : Params) (lo hi : Word) : Cell := ⟨lo, tyOfBits p (hi.extractLsb' 0 2), hi.extractLsb' 2 2⟩

/-- `StoreData(c, 1)` (45_ldst24.md R158). -/
def storeData8 (c : Cell) : Byte :=
  match c.t with
  | .u | .s => c.v.extractLsb' 0 8
  | .f | .f2 => Config.floatToMem8 c

/-- `StoreData(c, 2)` (45_ldst24.md R158). -/
def storeData16 (c : Cell) : Word :=
  match c.t with
  | .u | .s => c.v
  | .f | .f2 => Config.floatToMem16 c

end Sys2Proof.Machine
end

