-- ==== Sys2Proof/Machine/Flags.lean ====
section
/-! DEFINITION. Arithmetic: results, what the Residue register receives (the machine's only flags, 10_state.md R15),
the branch tests, the shift and the field extract. -/

namespace Sys2Proof.Machine

/-- A 0/1 flag as the Residue register holds it: type U, `e` = 00 (42_alu16.md R108). -/
def flagCell (b : Bool) : Cell := ⟨if b then 1#16 else 0#16, .u, 0#2⟩

/-- Carry out of a 16-bit unsigned addition, bit 16 of the 17-bit sum (42_alu16.md R108). -/
def carryAdd (a b : Word) : Bool := decide (2 ^ 16 ≤ a.toNat + b.toNat)

/-- Signed overflow of an addition (42_alu16.md R108). -/
def overflowAdd (a b : Word) : Bool := a.msb == b.msb && (a + b).msb != a.msb

/-- The unsigned flag of a subtraction `a - b`, by SUB_CARRY (42_alu16.md R109). -/
def carrySub (p : Params) (a b : Word) : Bool :=
  match p.subCarry with
  | .borrow => decide (a.toNat < b.toNat)
  | .notBorrow => decide (b.toNat ≤ a.toNat)

/-- Signed overflow of a subtraction `a - b` (42_alu16.md R109). -/
def overflowSub (a b : Word) : Bool := a.msb != b.msb && (a - b).msb != a.msb

/-- The 32-bit product of two operands of type U (42_alu16.md R110). -/
def productU (a b : Word) : BitVec 32 := BitVec.ofNat 32 (a.toNat * b.toNat)

/-- The 32-bit product of two operands of type S (42_alu16.md R110). -/
def productS (a b : Word) : BitVec 32 := BitVec.ofInt 32 (a.toInt * b.toInt)

/-- The low half as D's cell and the high half as the residue, both of type `t` (42_alu16.md R110). -/
def productCells (t : Ty) (p : BitVec 32) : Cell × Cell :=
  (⟨p.extractLsb' 0 16, t, 0#2⟩, ⟨p.extractLsb' 16 16, t, 0#2⟩)

/-- `DivResult(U, n, m)`: floor division; unstated for m = 0 (42_alu16.md R111). -/
def divU (n m : Word) : Word × Word :=
  if m = 0#16 then Config.divUnstated .u n m else (BitVec.ofNat 16 (n.toNat / m.toNat), BitVec.ofNat 16 (n.toNat % m.toNat))

/-- `DivResult(S, n, m)`: truncation toward zero, the remainder with the dividend's sign; unstated for m = 0 and for
-32768 / -1 (42_alu16.md R111). -/
def divS (n m : Word) : Word × Word :=
  if m = 0#16 ∨ (n = 0x8000#16 ∧ m = 0xFFFF#16) then Config.divUnstated .s n m
  else (BitVec.ofInt 16 (n.toInt.tdiv m.toInt), BitVec.ofInt 16 (n.toInt.tmod m.toInt))

/-- Quotient and remainder as cells of the operands' type (42_alu16.md R111). -/
def divCells (t : Ty) (r : Word × Word) : Cell × Cell := (⟨r.1, t, 0#2⟩, ⟨r.2, t, 0#2⟩)

/-- A cell with `e` = 00 if its type is U or S: the exponent bits of an integer are written as 00 and read by no integer
operation; those of a float type stay (10_state.md R14). -/
def clearE (c : Cell) : Cell :=
  match c.t with
  | .u | .s => ⟨c.v, c.t, 0#2⟩
  | .f | .f2 => c

/-- `MixedArith` (42_alu16.md R106) within R14 of 10_state.md: the exponent bits of an integer operand are not read,
those of an integer result are 00 (entry 12). -/
def mixedResult (op : ArithOp) (a b : Cell) : Cell × Option Cell :=
  let r := Config.mixedArith op (clearE a) (clearE b)
  (clearE r.1, r.2.map clearE)

/-- `CmpResult` for operands of one type, U or S, of which the first is the less where `lt` (42_alu16.md R112; entry
19): the default format, or the function the implementation has, within R14 of 10_state.md. -/
def cmpCell (p : Params) (lt : Bool) (a b : Cell) : Cell :=
  match p.cmpResult with
  | .signed => ⟨if lt then 0xFFFF#16 else if a.v = b.v then 0#16 else 1#16, .s, 0#2⟩
  | .other => clearE (Config.cmpResult a.t a.v b.v)

/-- The unsigned operation on operands of type U: D's cell and the residue (42_alu16.md R108 to R112). In a compare
the first stands for nothing: D is not written. -/
def arithU (p : Params) (op : ArithOp) (a b : Cell) : Cell × Cell :=
  match op with
  | .add => (⟨a.v + b.v, .u, 0#2⟩, flagCell (carryAdd a.v b.v))
  | .sub => (⟨a.v - b.v, .u, 0#2⟩, flagCell (carrySub p a.v b.v))
  | .mul => productCells .u (productU a.v b.v)
  | .div => divCells .u (divU b.v a.v)
  | .cmp => (default, cmpCell p (decide (a.v.toNat < b.v.toNat)) a b)

/-- The signed operation on operands of type S (42_alu16.md R108 to R112). -/
def arithS (p : Params) (op : ArithOp) (a b : Cell) : Cell × Cell :=
  match op with
  | .add => (⟨a.v + b.v, .s, 0#2⟩, flagCell (overflowAdd a.v b.v))
  | .sub => (⟨a.v - b.v, .s, 0#2⟩, flagCell (overflowSub a.v b.v))
  | .mul => productCells .s (productS a.v b.v)
  | .div => divCells .s (divS b.v a.v)
  | .cmp => (default, cmpCell p (decide (a.v.toInt < b.v.toInt)) a b)

/-- The type rule (42_alu16.md R106) and the operation it selects: D's cell, and the residue cell where there is one. -/
def arithResult (p : Params) (op : ArithOp) (a b : Cell) : Except Stop (Cell × Option Cell) :=
  if a.t = b.t then
    match b.t with
    | .u => .ok ((arithU p op a b).1, some (arithU p op a b).2)
    | .s => .ok ((arithS p op a b).1, some (arithS p op a b).2)
    | .f | .f2 => .ok (Config.floatArith op a b)
  else if p.mixedTypes then .ok (mixedResult op a b)
  else .error (.halt .unimplementedInstruction)

/-- DIV and DIVI without a divider (30_encoding.md R75 c). -/
def requireDiv (p : Params) : Except Stop Unit :=
  if p.hasDiv then .ok () else .error (.halt .unimplementedInstruction)

/-! ## The shared arithmetic and logical actions: first operand `a`, second `b`, destination `d` -/

/-- ADD (42_alu16.md R108, 47_alu24.md R187): D = 31 is a jump to the sum. -/
def doAdd (d : Reg) (a b : Cell) (npc : Word) (s : State) : Except Stop State := do
  let r ← arithResult s.params .add a b
  rejectRes d
  return (s.writeRes r.2).writeOrJump d r.1 npc

/-- SUB, `a - b` (42_alu16.md R109, 47_alu24.md R188). -/
def doSub (d : Reg) (a b : Cell) (npc : Word) (s : State) : Except Stop State := do
  rejectPc d
  let r ← arithResult s.params .sub a b
  rejectRes d
  return ((s.writeRes r.2).writeReg d r.1).setPc npc

/-- MUL (42_alu16.md R110, 47_alu24.md R189): D = 31 blocks the write to D. -/
def doMul (d : Reg) (a b : Cell) (npc : Word) (s : State) : Except Stop State := do
  let r ← arithResult s.params .mul a b
  rejectRes d
  return (s.writeRes r.2).writeOrBlock d r.1 npc

/-- DIV, `b / a` (42_alu16.md R111, 47_alu24.md R190): D = 31 blocks the write to D. -/
def doDiv (d : Reg) (a b : Cell) (npc : Word) (s : State) : Except Stop State := do
  requireDiv s.params
  let r ← arithResult s.params .div a b
  rejectRes d
  return (s.writeRes r.2).writeOrBlock d r.1 npc

/-- CMP (42_alu16.md R112, 47_alu24.md R191): only the Residue register is written. -/
def doCmp (a b : Cell) (npc : Word) (s : State) : Except Stop State := do
  let r ← arithResult s.params .cmp a b
  return (s.writeRes r.2).setPc npc

/-- AND, OR, XOR (42_alu16.md R113 to R115, 47_alu24.md R186, R192 to R194): bitwise on the data, the tag of `b`. -/
def doLogic (f : Word → Word → Word) (d : Reg) (a : Word) (b : Cell) (npc : Word) (s : State) :
    Except Stop State := do
  rejectPc d
  return (s.writeReg d ⟨f a b.v, b.t, b.e⟩).setPc npc

/-! ## Branch tests, shift, extract -/

/-- `IsZero` (41_branch16.md R95). -/
def isZero (c : Cell) : Bool :=
  match c.t with
  | .u | .s => c.v == 0#16
  | .f | .f2 => (Config.floatTest c).1

/-- `IsNeg` (41_branch16.md R95). -/
def isNeg (c : Cell) : Bool :=
  match c.t with
  | .u => false
  | .s => c.v.msb
  | .f | .f2 => (Config.floatTest c).2

/-- The logical shift of SHFTN on type U: left for N >= 0, right for N < 0 (43_imm_shift_extract16.md R134). -/
def shiftU (v n16 : Word) : Word := if 0 ≤ n16.toInt then v <<< n16.toInt.toNat else v >>> (-n16.toInt).toNat

/-- The arithmetic shift of SHFTN on type S (43_imm_shift_extract16.md R134). -/
def shiftS (v n16 : Word) : Word :=
  if 0 ≤ n16.toInt then v <<< n16.toInt.toNat else v.sshiftRight (-n16.toInt).toNat

/-- What SHFTN writes to D (43_imm_shift_extract16.md R134). -/
def shiftCell (b : Cell) (n16 : Word) : Cell :=
  match b.t with
  | .u => ⟨shiftU b.v n16, .u, 0#2⟩
  | .s => ⟨shiftS b.v n16, .s, 0#2⟩
  | .f => floatCell .f (Config.floatShift b n16)
  | .f2 => floatCell .f2 (Config.floatShift b n16)

/-- `start` of EXTCTN's descriptor, N16[3:0] (43_imm_shift_extract16.md R135). -/
def fieldStart (n16 : Word) : Nat := (n16.extractLsb' 0 4).toNat

/-- `width` of EXTCTN's descriptor, N16[9:6], zero standing for 16 (43_imm_shift_extract16.md R135). -/
def fieldWidth (n16 : Word) : Nat :=
  if (n16.extractLsb' 6 4).toNat = 0 then 16 else (n16.extractLsb' 6 4).toNat

/-- What EXTCTN writes to D: the field, sign-extended for type S only; the tag is untouched (R135). -/
def extractCell (b : Cell) (n16 : Word) : Cell :=
  let fld := (b.v >>> fieldStart n16).extractLsb' 0 (fieldWidth n16)
  match b.t with
  | .s => ⟨fld.signExtend 16, b.t, b.e⟩
  | .u | .f | .f2 => ⟨fld.setWidth 16, b.t, b.e⟩

end Sys2Proof.Machine
end

