-- ==== Sys2Proof/Machine/Alu16.lean ====
section
/-! DEFINITION. MOV and the 16-bit arithmetic and logical instructions (42_alu16.md). -/

namespace Sys2Proof.Machine

/-- MOV, all 20 bits; to the PC a jump, invalid from a float-typed register (42_alu16.md R107). -/
def execMov (d r : Reg) (s : State) : Result State :=
  let npc := npcOf (.mov d r) s
  let c := s.readReg npc r
  settle s (if d = pcReg ∧ (c.t = .f ∨ c.t = .f2) then .error (.halt .invalidOperand) else .ok (s.writeOrJump d c npc))

/-- ADD (42_alu16.md R108). -/
def execAdd (d r : Reg) (s : State) : Result State :=
  let npc := npcOf (.add d r) s
  settle s (doAdd d (s.readReg npc r) (s.readReg npc d) npc s)

/-- SUB (42_alu16.md R109). -/
def execSub (d r : Reg) (s : State) : Result State :=
  let npc := npcOf (.sub d r) s
  settle s (doSub d (s.readReg npc r) (s.readReg npc d) npc s)

/-- MUL (42_alu16.md R110). -/
def execMul (d r : Reg) (s : State) : Result State :=
  let npc := npcOf (.mul d r) s
  settle s (doMul d (s.readReg npc r) (s.readReg npc d) npc s)

/-- DIV (42_alu16.md R111). -/
def execDiv (d r : Reg) (s : State) : Result State :=
  let npc := npcOf (.div d r) s
  settle s (doDiv d (s.readReg npc r) (s.readReg npc d) npc s)

/-- CMP (42_alu16.md R112). -/
def execCmp (d r : Reg) (s : State) : Result State :=
  let npc := npcOf (.cmp d r) s
  settle s (doCmp (s.readReg npc r) (s.readReg npc d) npc s)

/-- AND (42_alu16.md R113). -/
def execAnd (d r : Reg) (s : State) : Result State :=
  let npc := npcOf (.and d r) s
  settle s (doLogic (· &&& ·) d (s.readReg npc r).v (s.readReg npc d) npc s)

/-- OR (42_alu16.md R114). -/
def execOr (d r : Reg) (s : State) : Result State :=
  let npc := npcOf (.or d r) s
  settle s (doLogic (· ||| ·) d (s.readReg npc r).v (s.readReg npc d) npc s)

/-- XOR (42_alu16.md R115). -/
def execXor (d r : Reg) (s : State) : Result State :=
  let npc := npcOf (.xor d r) s
  settle s (doLogic (· ^^^ ·) d (s.readReg npc r).v (s.readReg npc d) npc s)

/-- The immediate operand of a 16-bit arithmetic instruction, of D's type (42_alu16.md R105). -/
def imm16Cell (n : Imm16) (t : Ty) : Cell := immCell t (n16Of16 n) (isLong16 n)

/-- ADDI (42_alu16.md R116). -/
def execAddi (d : Reg) (n : Imm16) (s : State) : Result State :=
  let npc := npcOf (.addi d n) s
  let b := s.readReg npc d
  settle s (doAdd d (imm16Cell n b.t) b npc s)

/-- SUBI (42_alu16.md R117). -/
def execSubi (d : Reg) (n : Imm16) (s : State) : Result State :=
  let npc := npcOf (.subi d n) s
  let b := s.readReg npc d
  settle s (doSub d (imm16Cell n b.t) b npc s)

/-- MULI (42_alu16.md R118). -/
def execMuli (d : Reg) (n : Imm16) (s : State) : Result State :=
  let npc := npcOf (.muli d n) s
  let b := s.readReg npc d
  settle s (doMul d (imm16Cell n b.t) b npc s)

/-- DIVI (42_alu16.md R119). -/
def execDivi (d : Reg) (n : Imm16) (s : State) : Result State :=
  let npc := npcOf (.divi d n) s
  let b := s.readReg npc d
  settle s (doDiv d (imm16Cell n b.t) b npc s)

/-- CMPI (42_alu16.md R120). -/
def execCmpi (d : Reg) (n : Imm16) (s : State) : Result State :=
  let npc := npcOf (.cmpi d n) s
  let b := s.readReg npc d
  settle s (doCmp (imm16Cell n b.t) b npc s)

/-- ANDI: the immediate is the plain pattern N16 (42_alu16.md R121). -/
def execAndi (d : Reg) (n : Imm16) (s : State) : Result State :=
  let npc := npcOf (.andi d n) s
  settle s (doLogic (· &&& ·) d (n16Of16 n) (s.readReg npc d) npc s)

/-- ORI: the immediate is the plain pattern N16 (42_alu16.md R122). -/
def execOri (d : Reg) (n : Imm16) (s : State) : Result State :=
  let npc := npcOf (.ori d n) s
  settle s (doLogic (· ||| ·) d (n16Of16 n) (s.readReg npc d) npc s)

/-- XORI: the immediate is the plain pattern N16 (42_alu16.md R123). -/
def execXori (d : Reg) (n : Imm16) (s : State) : Result State :=
  let npc := npcOf (.xori d n) s
  settle s (doLogic (· ^^^ ·) d (n16Of16 n) (s.readReg npc d) npc s)

end Sys2Proof.Machine
end

