-- ==== Sys2Proof/Machine/Alu24.lean ====
section
/-! DEFINITION. The 24-bit arithmetic and logical instructions (47_alu24.md). -/

namespace Sys2Proof.Machine

/-- The type a 24-bit immediate constant takes, by IMM24_TYPE_FROM (47_alu24.md R185). -/
def imm24Ty (s : State) (npc : Word) (d : Reg) (b : Cell) : Ty :=
  match s.params.imm24TypeFrom with
  | .s => b.t
  | .d => (s.readReg npc d).t

/-- The immediate operand of a 24-bit arithmetic instruction (47_alu24.md R185). -/
def imm24Cell (n : Imm24) (t : Ty) : Cell := immCell t (n16Of24 n) (isLong24 n)

/-- ADD, 24-bit (47_alu24.md R187). -/
def execAdd_24 (d sr r : Reg) (s : State) : Result State :=
  let npc := npcOf (.add_24 d sr r) s
  settle s (doAdd d (s.readReg npc r) (s.readReg npc sr) npc s)

/-- ADDI, 24-bit (47_alu24.md R195). -/
def execAddi_24 (d sr : Reg) (n : Imm24) (s : State) : Result State :=
  let npc := npcOf (.addi_24 d sr n) s
  let b := s.readReg npc sr
  settle s (doAdd d (imm24Cell n (imm24Ty s npc d b)) b npc s)

/-- SUB, 24-bit (47_alu24.md R188). -/
def execSub_24 (d sr r : Reg) (s : State) : Result State :=
  let npc := npcOf (.sub_24 d sr r) s
  settle s (doSub d (s.readReg npc r) (s.readReg npc sr) npc s)

/-- SUBI, 24-bit (47_alu24.md R196). -/
def execSubi_24 (d sr : Reg) (n : Imm24) (s : State) : Result State :=
  let npc := npcOf (.subi_24 d sr n) s
  let b := s.readReg npc sr
  settle s (doSub d (imm24Cell n (imm24Ty s npc d b)) b npc s)

/-- MUL, 24-bit (47_alu24.md R189). -/
def execMul_24 (d sr r : Reg) (s : State) : Result State :=
  let npc := npcOf (.mul_24 d sr r) s
  settle s (doMul d (s.readReg npc r) (s.readReg npc sr) npc s)

/-- MULI, 24-bit (47_alu24.md R197). -/
def execMuli_24 (d sr : Reg) (n : Imm24) (s : State) : Result State :=
  let npc := npcOf (.muli_24 d sr n) s
  let b := s.readReg npc sr
  settle s (doMul d (imm24Cell n (imm24Ty s npc d b)) b npc s)

/-- DIV, 24-bit (47_alu24.md R190). -/
def execDiv_24 (d sr r : Reg) (s : State) : Result State :=
  let npc := npcOf (.div_24 d sr r) s
  settle s (doDiv d (s.readReg npc r) (s.readReg npc sr) npc s)

/-- DIVI, 24-bit (47_alu24.md R198). -/
def execDivi_24 (d sr : Reg) (n : Imm24) (s : State) : Result State :=
  let npc := npcOf (.divi_24 d sr n) s
  let b := s.readReg npc sr
  settle s (doDiv d (imm24Cell n (imm24Ty s npc d b)) b npc s)

/-- CMP, 24-bit (47_alu24.md R191). -/
def execCmp_24 (d sr r : Reg) (s : State) : Result State :=
  let npc := npcOf (.cmp_24 d sr r) s
  settle s (doCmp (s.readReg npc r) (s.readReg npc sr) npc s)

/-- CMPI, 24-bit (47_alu24.md R199). -/
def execCmpi_24 (d sr : Reg) (n : Imm24) (s : State) : Result State :=
  let npc := npcOf (.cmpi_24 d sr n) s
  let b := s.readReg npc sr
  settle s (doCmp (imm24Cell n (imm24Ty s npc d b)) b npc s)

/-- AND, 24-bit (47_alu24.md R192). -/
def execAnd_24 (d sr r : Reg) (s : State) : Result State :=
  let npc := npcOf (.and_24 d sr r) s
  settle s (doLogic (· &&& ·) d (s.readReg npc r).v (s.readReg npc sr) npc s)

/-- ANDI, 24-bit: the immediate is the plain pattern N16 (47_alu24.md R200). -/
def execAndi_24 (d sr : Reg) (n : Imm24) (s : State) : Result State :=
  let npc := npcOf (.andi_24 d sr n) s
  settle s (doLogic (· &&& ·) d (n16Of24 n) (s.readReg npc sr) npc s)

/-- OR, 24-bit (47_alu24.md R193). -/
def execOr_24 (d sr r : Reg) (s : State) : Result State :=
  let npc := npcOf (.or_24 d sr r) s
  settle s (doLogic (· ||| ·) d (s.readReg npc r).v (s.readReg npc sr) npc s)

/-- ORI, 24-bit: the immediate is the plain pattern N16 (47_alu24.md R201). -/
def execOri_24 (d sr : Reg) (n : Imm24) (s : State) : Result State :=
  let npc := npcOf (.ori_24 d sr n) s
  settle s (doLogic (· ||| ·) d (n16Of24 n) (s.readReg npc sr) npc s)

/-- XOR, 24-bit (47_alu24.md R194). -/
def execXor_24 (d sr r : Reg) (s : State) : Result State :=
  let npc := npcOf (.xor_24 d sr r) s
  settle s (doLogic (· ^^^ ·) d (s.readReg npc r).v (s.readReg npc sr) npc s)

/-- XORI, 24-bit: the immediate is the plain pattern N16 (47_alu24.md R202). -/
def execXori_24 (d sr : Reg) (n : Imm24) (s : State) : Result State :=
  let npc := npcOf (.xori_24 d sr n) s
  settle s (doLogic (· ^^^ ·) d (n16Of24 n) (s.readReg npc sr) npc s)

end Sys2Proof.Machine
end

