-- ==== Sys2Proof/Machine/Branch.lean ====
section
/-! DEFINITION. BSRN, BRZN, BRNZN, BRPN, BRMN (41_branch16.md). -/

namespace Sys2Proof.Machine

/-- BSRN, branch and save relative; D = 31 writes no link (41_branch16.md R96). -/
def execBsrn (d : Reg) (n : Imm16) (s : State) : Result State :=
  let npc := npcOf (.bsrn d n) s
  .next ((s.writeReg d ⟨npc, .u, 0#2⟩).setPc (branchTarget s.params npc (n16Of16 n)))

/-- The next pc of a conditional branch (41_branch16.md R95, R97 to R100). -/
def branchPc (taken : Bool) (p : Params) (npc n16 : Word) : Word := if taken then branchTarget p npc n16 else npc

/-- BRZN, branch relative if zero (41_branch16.md R97). -/
def execBrzn (d : Reg) (n : Imm16) (s : State) : Result State :=
  let npc := npcOf (.brzn d n) s
  .next (s.setPc (branchPc (isZero (s.readReg npc d)) s.params npc (n16Of16 n)))

/-- BRNZN, branch relative if not zero (41_branch16.md R98). -/
def execBrnzn (d : Reg) (n : Imm16) (s : State) : Result State :=
  let npc := npcOf (.brnzn d n) s
  .next (s.setPc (branchPc (!isZero (s.readReg npc d)) s.params npc (n16Of16 n)))

/-- BRPN, branch relative if positive, zero included (41_branch16.md R99). -/
def execBrpn (d : Reg) (n : Imm16) (s : State) : Result State :=
  let npc := npcOf (.brpn d n) s
  .next (s.setPc (branchPc (!isNeg (s.readReg npc d)) s.params npc (n16Of16 n)))

/-- BRMN, branch relative if negative (41_branch16.md R100; 90_conflicts.md C1). -/
def execBrmn (d : Reg) (n : Imm16) (s : State) : Result State :=
  let npc := npcOf (.brmn d n) s
  .next (s.setPc (branchPc (isNeg (s.readReg npc d)) s.params npc (n16Of16 n)))

end Sys2Proof.Machine
end

