-- ==== Sys2Proof/Machine/Imm16.lean ====
section
/-! DEFINITION. LDUI, LDSI, LDFI, LDF2I, SHFTN, EXTCTN (43_imm_shift_extract16.md). -/

namespace Sys2Proof.Machine

/-- LDUI; to the PC an absolute jump (43_imm_shift_extract16.md R130). -/
def execLdui (d : Reg) (n : Imm16) (s : State) : Result State :=
  .next (s.writeOrJump d ⟨n16Of16 n, .u, 0#2⟩ (npcOf (.ldui d n) s))

/-- LDSI; to the PC an absolute jump (43_imm_shift_extract16.md R131). -/
def execLdsi (d : Reg) (n : Imm16) (s : State) : Result State :=
  .next (s.writeOrJump d ⟨n16Of16 n, .s, 0#2⟩ (npcOf (.ldsi d n) s))

/-- An instruction that writes a cell to D, which may not be the PC, and goes on. -/
def writeD (d : Reg) (c : Cell) (npc : Word) (s : State) : Except Stop State := do
  rejectPc d
  return (s.writeReg d c).setPc npc

/-- LDFI (43_imm_shift_extract16.md R132). -/
def execLdfi (d : Reg) (n : Imm16) (s : State) : Result State :=
  settle s (writeD d (floatCell .f (Config.floatImm .f (n16Of16 n) (isLong16 n))) (npcOf (.ldfi d n) s) s)

/-- LDF2I (43_imm_shift_extract16.md R133). -/
def execLdf2i (d : Reg) (n : Imm16) (s : State) : Result State :=
  settle s (writeD d (floatCell .f2 (Config.floatImm .f2 (n16Of16 n) (isLong16 n))) (npcOf (.ldf2i d n) s) s)

/-- SHFTN (43_imm_shift_extract16.md R134). -/
def execShftn (d : Reg) (n : Imm16) (s : State) : Result State :=
  let npc := npcOf (.shftn d n) s
  settle s (writeD d (shiftCell (s.readReg npc d) (n16Of16 n)) npc s)

/-- EXTCTN (43_imm_shift_extract16.md R135). -/
def execExtctn (d : Reg) (n : Imm16) (s : State) : Result State :=
  let npc := npcOf (.extctn d n) s
  settle s (writeD d (extractCell (s.readReg npc d) (n16Of16 n)) npc s)

end Sys2Proof.Machine
end

