-- ==== Sys2Proof/Machine/Io.lean ====
section
/-! DEFINITION. INN and OUTN (40_io.md). -/

namespace Sys2Proof.Machine

/-- INN, input (40_io.md R90). -/
def execInn (d : Reg) (n : Imm16) (s : State) : Result State :=
  let npc := npcOf (.inn d n) s
  settle s do
    rejectPc d
    match ioTarget (n16Of16 n) with
    | .port k => return ((s.portIn k).2.writeReg d ⟨(s.portIn k).1, .u, 0#2⟩).setPc npc
    | .ireg k => return (s.writeReg d ⟨s.readIreg k, .u, 0#2⟩).setPc npc
    | .memory a =>
      let v ← s.load16 a
      return (s.writeReg d ⟨v, .u, 0#2⟩).setPc npc

/-- OUTN, output (40_io.md R91). -/
def execOutn (d : Reg) (n : Imm16) (s : State) : Result State :=
  let npc := npcOf (.outn d n) s
  let v := (s.readReg npc d).v
  settle s do
    match ioTarget (n16Of16 n) with
    | .port k => return (s.portOut k v).setPc npc
    | .ireg k => return (s.writeIreg k v).setPc npc
    | .memory a =>
      let t ← s.store16 a v
      return t.setPc npc

end Sys2Proof.Machine
end

