-- ==== Sys2Proof/Machine/LoadStore.lean ====
section
/-! DEFINITION. The loads, LEA and stores that the 24- and the 32-bit format share; only the address differs
(45_ldst24.md, 46_ldst32.md). -/

namespace Sys2Proof.Machine

/-- LDU8: zero-extended, type U (45_ldst24.md R146). -/
def doLdu8 (d : Reg) (ea : Except Stop Word) (npc : Word) (s : State) : Except Stop State := do
  rejectPc d
  let b ← s.load8 (← ea)
  return (s.writeReg d ⟨b.setWidth 16, .u, 0#2⟩).setPc npc

/-- LDS8: sign-extended, type S (45_ldst24.md R148). -/
def doLds8 (d : Reg) (ea : Except Stop Word) (npc : Word) (s : State) : Except Stop State := do
  rejectPc d
  let b ← s.load8 (← ea)
  return (s.writeReg d ⟨b.signExtend 16, .s, 0#2⟩).setPc npc

/-- LDU16 and LDS16: to the PC a table lookup jump (45_ldst24.md R147, R149). -/
def doLd16 (t : Ty) (d : Reg) (ea : Except Stop Word) (npc : Word) (s : State) : Except Stop State := do
  let v ← s.load16 (← ea)
  return s.writeOrJump d ⟨v, t, 0#2⟩ npc

/-- FLD8 and F2LD8 (45_ldst24.md R150, R152). -/
def doFld8 (t : FloatTy) (d : Reg) (ea : Except Stop Word) (npc : Word) (s : State) : Except Stop State := do
  rejectPc d
  let b ← s.load8 (← ea)
  return (s.writeReg d (floatCell t (Config.floatFromMem8 t b))).setPc npc

/-- FLD16 and F2LD16 (45_ldst24.md R151, R153). -/
def doFld16 (t : FloatTy) (d : Reg) (ea : Except Stop Word) (npc : Word) (s : State) : Except Stop State := do
  rejectPc d
  let v ← s.load16 (← ea)
  return (s.writeReg d (floatCell t (Config.floatFromMem16 t v))).setPc npc

/-- LEA8 and LEA16: to the PC an indexed jump; no access (45_ldst24.md R154, R155). -/
def doLea (d : Reg) (ea : Except Stop Word) (npc : Word) (s : State) : Except Stop State := do
  let a ← ea
  return s.writeOrJump d ⟨a, .u, 0#2⟩ npc

/-- ST8 (45_ldst24.md R156, R158). -/
def doSt8 (d : Reg) (ea : Except Stop Word) (npc : Word) (s : State) : Except Stop State := do
  let t ← s.store8 (← ea) (storeData8 (s.readReg npc d))
  return t.setPc npc

/-- ST16 (45_ldst24.md R157, R158). -/
def doSt16 (d : Reg) (ea : Except Stop Word) (npc : Word) (s : State) : Except Stop State := do
  let t ← s.store16 (← ea) (storeData16 (s.readReg npc d))
  return t.setPc npc

end Sys2Proof.Machine
end

