-- ==== Sys2Proof/Machine/LdSt24.lean ====
section
/-! DEFINITION. The 24-bit loads, LEA and stores (45_ldst24.md). -/

namespace Sys2Proof.Machine

/-- LDU8, 24-bit (45_ldst24.md R146). -/
def execLdu8_24 (d : Reg) (a : Addr24) (s : State) : Result State :=
  let npc := npcOf (.ldu8_24 d a) s
  settle s (doLdu8 d (.ok (ea24 s npc 1#16 a)) npc s)

/-- LDU16, 24-bit (45_ldst24.md R147). -/
def execLdu16_24 (d : Reg) (a : Addr24) (s : State) : Result State :=
  let npc := npcOf (.ldu16_24 d a) s
  settle s (doLd16 .u d (.ok (ea24 s npc 2#16 a)) npc s)

/-- LDS8, 24-bit (45_ldst24.md R148). -/
def execLds8_24 (d : Reg) (a : Addr24) (s : State) : Result State :=
  let npc := npcOf (.lds8_24 d a) s
  settle s (doLds8 d (.ok (ea24 s npc 1#16 a)) npc s)

/-- LDS16, 24-bit (45_ldst24.md R149). -/
def execLds16_24 (d : Reg) (a : Addr24) (s : State) : Result State :=
  let npc := npcOf (.lds16_24 d a) s
  settle s (doLd16 .s d (.ok (ea24 s npc 2#16 a)) npc s)

/-- FLD8, 24-bit (45_ldst24.md R150). -/
def execFld8_24 (d : Reg) (a : Addr24) (s : State) : Result State :=
  let npc := npcOf (.fld8_24 d a) s
  settle s (doFld8 .f d (.ok (ea24 s npc 1#16 a)) npc s)

/-- FLD16, 24-bit (45_ldst24.md R151). -/
def execFld16_24 (d : Reg) (a : Addr24) (s : State) : Result State :=
  let npc := npcOf (.fld16_24 d a) s
  settle s (doFld16 .f d (.ok (ea24 s npc 2#16 a)) npc s)

/-- F2LD8, 24-bit (45_ldst24.md R152). -/
def execF2ld8_24 (d : Reg) (a : Addr24) (s : State) : Result State :=
  let npc := npcOf (.f2ld8_24 d a) s
  settle s (doFld8 .f2 d (.ok (ea24 s npc 1#16 a)) npc s)

/-- F2LD16, 24-bit (45_ldst24.md R153). -/
def execF2ld16_24 (d : Reg) (a : Addr24) (s : State) : Result State :=
  let npc := npcOf (.f2ld16_24 d a) s
  settle s (doFld16 .f2 d (.ok (ea24 s npc 2#16 a)) npc s)

/-- LEA8, 24-bit (45_ldst24.md R154). -/
def execLea8_24 (d : Reg) (a : Addr24) (s : State) : Result State :=
  let npc := npcOf (.lea8_24 d a) s
  settle s (doLea d (.ok (ea24 s npc 1#16 a)) npc s)

/-- LEA16, 24-bit (45_ldst24.md R155). -/
def execLea16_24 (d : Reg) (a : Addr24) (s : State) : Result State :=
  let npc := npcOf (.lea16_24 d a) s
  settle s (doLea d (.ok (ea24 s npc 2#16 a)) npc s)

/-- ST8, 24-bit (45_ldst24.md R156). -/
def execSt8_24 (d : Reg) (a : Addr24) (s : State) : Result State :=
  let npc := npcOf (.st8_24 d a) s
  settle s (doSt8 d (.ok (ea24 s npc 1#16 a)) npc s)

/-- ST16, 24-bit (45_ldst24.md R157). -/
def execSt16_24 (d : Reg) (a : Addr24) (s : State) : Result State :=
  let npc := npcOf (.st16_24 d a) s
  settle s (doSt16 d (.ok (ea24 s npc 2#16 a)) npc s)

end Sys2Proof.Machine
end

