-- ==== Sys2Proof/Machine/LdSt32.lean ====
section
/-! DEFINITION. The 32-bit loads, LEA and stores (46_ldst32.md). -/

namespace Sys2Proof.Machine

/-- LDU8, 32-bit (46_ldst32.md R166). -/
def execLdu8_32 (d : Reg) (a : Addr32) (s : State) : Result State :=
  let npc := npcOf (.ldu8_32 d a) s
  settle s (doLdu8 d (ea32 s npc 1#16 a) npc s)

/-- LDU16, 32-bit (46_ldst32.md R167). -/
def execLdu16_32 (d : Reg) (a : Addr32) (s : State) : Result State :=
  let npc := npcOf (.ldu16_32 d a) s
  settle s (doLd16 .u d (ea32 s npc 2#16 a) npc s)

/-- LDS8, 32-bit (46_ldst32.md R168). -/
def execLds8_32 (d : Reg) (a : Addr32) (s : State) : Result State :=
  let npc := npcOf (.lds8_32 d a) s
  settle s (doLds8 d (ea32 s npc 1#16 a) npc s)

/-- LDS16, 32-bit (46_ldst32.md R169). -/
def execLds16_32 (d : Reg) (a : Addr32) (s : State) : Result State :=
  let npc := npcOf (.lds16_32 d a) s
  settle s (doLd16 .s d (ea32 s npc 2#16 a) npc s)

/-- FLD8, 32-bit (46_ldst32.md R170). -/
def execFld8_32 (d : Reg) (a : Addr32) (s : State) : Result State :=
  let npc := npcOf (.fld8_32 d a) s
  settle s (doFld8 .f d (ea32 s npc 1#16 a) npc s)

/-- FLD16, 32-bit (46_ldst32.md R171). -/
def execFld16_32 (d : Reg) (a : Addr32) (s : State) : Result State :=
  let npc := npcOf (.fld16_32 d a) s
  settle s (doFld16 .f d (ea32 s npc 2#16 a) npc s)

/-- F2LD8, 32-bit (46_ldst32.md R172). -/
def execF2ld8_32 (d : Reg) (a : Addr32) (s : State) : Result State :=
  let npc := npcOf (.f2ld8_32 d a) s
  settle s (doFld8 .f2 d (ea32 s npc 1#16 a) npc s)

/-- F2LD16, 32-bit (46_ldst32.md R173). -/
def execF2ld16_32 (d : Reg) (a : Addr32) (s : State) : Result State :=
  let npc := npcOf (.f2ld16_32 d a) s
  settle s (doFld16 .f2 d (ea32 s npc 2#16 a) npc s)

/-- LEA8, 32-bit (46_ldst32.md R174). -/
def execLea8_32 (d : Reg) (a : Addr32) (s : State) : Result State :=
  let npc := npcOf (.lea8_32 d a) s
  settle s (doLea d (ea32 s npc 1#16 a) npc s)

/-- LEA16, 32-bit (46_ldst32.md R175). -/
def execLea16_32 (d : Reg) (a : Addr32) (s : State) : Result State :=
  let npc := npcOf (.lea16_32 d a) s
  settle s (doLea d (ea32 s npc 2#16 a) npc s)

/-- ST8, 32-bit (46_ldst32.md R176). -/
def execSt8_32 (d : Reg) (a : Addr32) (s : State) : Result State :=
  let npc := npcOf (.st8_32 d a) s
  settle s (doSt8 d (ea32 s npc 1#16 a) npc s)

/-- ST16, 32-bit (46_ldst32.md R177). -/
def execSt16_32 (d : Reg) (a : Addr32) (s : State) : Result State :=
  let npc := npcOf (.st16_32 d a) s
  settle s (doSt16 d (ea32 s npc 2#16 a) npc s)

end Sys2Proof.Machine
end

