-- ==== Sys2Proof/Machine/Typed.lean ====
section
/-! DEFINITION. LDTN and STTN (44_typed_ldst16.md). -/

namespace Sys2Proof.Machine

/-- LDTN, load typed (44_typed_ldst16.md R140). -/
def execLdtn (d : Reg) (n : Imm16) (s : State) : Result State :=
  let npc := npcOf (.ldtn d n) s
  let a := n16Of16 n
  settle s do
    rejectPc d
    let lo ← s.load16 a
    let hi ← s.load16 (a + 2#16)
    return (s.writeReg d (cellOfHalves s.params lo hi)).setPc npc

/-- STTN, store typed (44_typed_ldst16.md R141). -/
def execSttn (d : Reg) (n : Imm16) (s : State) : Result State :=
  let npc := npcOf (.sttn d n) s
  let a := n16Of16 n
  let c := s.readReg npc d
  settle s do
    let t ← s.store16 a c.v
    let t ← t.store16 (a + 2#16) (tagHalf s.params c)
    return t.setPc npc

end Sys2Proof.Machine
end

