-- ==== Sys2Proof/Machine/Dispatch.lean ====
section
/-! DEFINITION. One arm per instruction. -/

namespace Sys2Proof.Machine

def exec (i : Instr) (s : State) : Host.Outcome State Fault Refusal :=
  match i with
  | .inn d n => Sys2Proof.Machine.execInn d n s
  | .outn d n => Sys2Proof.Machine.execOutn d n s
  | .bsrn d n => Sys2Proof.Machine.execBsrn d n s
  | .brzn d n => Sys2Proof.Machine.execBrzn d n s
  | .brnzn d n => Sys2Proof.Machine.execBrnzn d n s
  | .brpn d n => Sys2Proof.Machine.execBrpn d n s
  | .brmn d n => Sys2Proof.Machine.execBrmn d n s
  | .mov d sr => Sys2Proof.Machine.execMov d sr s
  | .add d sr => Sys2Proof.Machine.execAdd d sr s
  | .sub d sr => Sys2Proof.Machine.execSub d sr s
  | .mul d sr => Sys2Proof.Machine.execMul d sr s
  | .div d sr => Sys2Proof.Machine.execDiv d sr s
  | .cmp d sr => Sys2Proof.Machine.execCmp d sr s
  | .and d sr => Sys2Proof.Machine.execAnd d sr s
  | .or d sr => Sys2Proof.Machine.execOr d sr s
  | .xor d sr => Sys2Proof.Machine.execXor d sr s
  | .addi d n => Sys2Proof.Machine.execAddi d n s
  | .subi d n => Sys2Proof.Machine.execSubi d n s
  | .muli d n => Sys2Proof.Machine.execMuli d n s
  | .divi d n => Sys2Proof.Machine.execDivi d n s
  | .cmpi d n => Sys2Proof.Machine.execCmpi d n s
  | .andi d n => Sys2Proof.Machine.execAndi d n s
  | .ori d n => Sys2Proof.Machine.execOri d n s
  | .xori d n => Sys2Proof.Machine.execXori d n s
  | .ldui d n => Sys2Proof.Machine.execLdui d n s
  | .ldsi d n => Sys2Proof.Machine.execLdsi d n s
  | .ldfi d n => Sys2Proof.Machine.execLdfi d n s
  | .ldf2i d n => Sys2Proof.Machine.execLdf2i d n s
  | .shftn d n => Sys2Proof.Machine.execShftn d n s
  | .extctn d n => Sys2Proof.Machine.execExtctn d n s
  | .ldtn d n => Sys2Proof.Machine.execLdtn d n s
  | .sttn d n => Sys2Proof.Machine.execSttn d n s
  | .ldu8_24 d a => Sys2Proof.Machine.execLdu8_24 d a s
  | .ldu16_24 d a => Sys2Proof.Machine.execLdu16_24 d a s
  | .lds8_24 d a => Sys2Proof.Machine.execLds8_24 d a s
  | .lds16_24 d a => Sys2Proof.Machine.execLds16_24 d a s
  | .fld8_24 d a => Sys2Proof.Machine.execFld8_24 d a s
  | .fld16_24 d a => Sys2Proof.Machine.execFld16_24 d a s
  | .f2ld8_24 d a => Sys2Proof.Machine.execF2ld8_24 d a s
  | .f2ld16_24 d a => Sys2Proof.Machine.execF2ld16_24 d a s
  | .lea8_24 d a => Sys2Proof.Machine.execLea8_24 d a s
  | .lea16_24 d a => Sys2Proof.Machine.execLea16_24 d a s
  | .st8_24 d a => Sys2Proof.Machine.execSt8_24 d a s
  | .st16_24 d a => Sys2Proof.Machine.execSt16_24 d a s
  | .add_24 d sr r => Sys2Proof.Machine.execAdd_24 d sr r s
  | .addi_24 d sr n => Sys2Proof.Machine.execAddi_24 d sr n s
  | .sub_24 d sr r => Sys2Proof.Machine.execSub_24 d sr r s
  | .subi_24 d sr n => Sys2Proof.Machine.execSubi_24 d sr n s
  | .mul_24 d sr r => Sys2Proof.Machine.execMul_24 d sr r s
  | .muli_24 d sr n => Sys2Proof.Machine.execMuli_24 d sr n s
  | .div_24 d sr r => Sys2Proof.Machine.execDiv_24 d sr r s
  | .divi_24 d sr n => Sys2Proof.Machine.execDivi_24 d sr n s
  | .cmp_24 d sr r => Sys2Proof.Machine.execCmp_24 d sr r s
  | .cmpi_24 d sr n => Sys2Proof.Machine.execCmpi_24 d sr n s
  | .and_24 d sr r => Sys2Proof.Machine.execAnd_24 d sr r s
  | .andi_24 d sr n => Sys2Proof.Machine.execAndi_24 d sr n s
  | .or_24 d sr r => Sys2Proof.Machine.execOr_24 d sr r s
  | .ori_24 d sr n => Sys2Proof.Machine.execOri_24 d sr n s
  | .xor_24 d sr r => Sys2Proof.Machine.execXor_24 d sr r s
  | .xori_24 d sr n => Sys2Proof.Machine.execXori_24 d sr n s
  | .ldu8_32 d a => Sys2Proof.Machine.execLdu8_32 d a s
  | .ldu16_32 d a => Sys2Proof.Machine.execLdu16_32 d a s
  | .lds8_32 d a => Sys2Proof.Machine.execLds8_32 d a s
  | .lds16_32 d a => Sys2Proof.Machine.execLds16_32 d a s
  | .fld8_32 d a => Sys2Proof.Machine.execFld8_32 d a s
  | .fld16_32 d a => Sys2Proof.Machine.execFld16_32 d a s
  | .f2ld8_32 d a => Sys2Proof.Machine.execF2ld8_32 d a s
  | .f2ld16_32 d a => Sys2Proof.Machine.execF2ld16_32 d a s
  | .lea8_32 d a => Sys2Proof.Machine.execLea8_32 d a s
  | .lea16_32 d a => Sys2Proof.Machine.execLea16_32 d a s
  | .st8_32 d a => Sys2Proof.Machine.execSt8_32 d a s
  | .st16_32 d a => Sys2Proof.Machine.execSt16_32 d a s

end Sys2Proof.Machine
end

