-- ==== Sys2Proof/Machine/Fetch.lean ====
section
/-! DEFINITION. Fetch and decode at the program counter (30_encoding.md R66). -/

namespace Sys2Proof.Machine

/-- The bytes a fetch reads: memory, or the launch's bytes where stores are not seen (IFETCH_COHERENT,
20_memory.md R53; entry 8). -/
def State.fetchMem (s : State) : Memory := if s.params.ifetchCoherent then s.mem else s.fetchImage

/-- One byte of a fetch. -/
def State.fetchByte (s : State) (a : Word) : Except Stop Byte := do
  requireByte s.params a
  return s.fetchMem.read a

/-- The bytes of the instruction at `pc`: the first half word, then as many more as it has (30_encoding.md R66). An
odd `pc` halts before anything is read (60_exceptions.md R293). -/
def State.fetch (s : State) : Except Stop (List Byte) := do
  if s.pc.getLsbD 0 then throw (.halt .misalignedFetch)
  let b0 ← s.fetchByte s.pc
  let b1 ← s.fetchByte (s.pc + 1#16)
  if fetchLengthBy s.params.opMaps (windowOf [b0, b1]) = 2 then return [b0, b1]
  let b2 ← s.fetchByte (s.pc + 2#16)
  if fetchLengthBy s.params.opMaps (windowOf [b0, b1, b2]) = 3 then return [b0, b1, b2]
  let b3 ← s.fetchByte (s.pc + 3#16)
  return [b0, b1, b2, b3]

/-- The halt of a window that is no instruction (60_exceptions.md R291, R294). -/
def haltOfDecode : DecodeError → HaltCause
  | .unassigned => .unimplementedInstruction
  | .reservedImmediate => .invalidOperand

/-- The instruction at `pc`, or the halt or fault its fetch and decoding end in (60_exceptions.md R298, 1 to 3). -/
def State.fetchDecode (s : State) : Except Stop Instr := do
  let bs ← s.fetch
  match decodeBy s.params.opMaps bs with
  | .ok i => return i
  | .error e => throw (.halt (haltOfDecode e))

/-- The launch of a program's bytes (70_reset_and_hazards.md R322): in memory, and in what a fetch sees. -/
def State.launchBytes (s : State) : Word → List Byte → State
  | _, [] => s
  | a, b :: bs =>
    State.launchBytes { s with mem := s.mem.write a b, fetchImage := s.fetchImage.write a b } (a + 1#16) bs

end Sys2Proof.Machine
end

