-- ==== Sys2Proof/Machine/Step.lean ====
section
/-! DEFINITION. One step (00_scope.md R7). -/

namespace Sys2Proof.Machine

/-- One step: nothing happens in a halted machine (60_exceptions.md R290); otherwise the instruction at `pc` is
fetched, decoded and executed. -/
def step (s : State) : Host.Outcome State Fault Refusal :=
  if s.halted then .next s
  else
    match s.fetchDecode with
    | .ok i => exec i s
    | .error e => settle s (.error e)

/-- The instruction whose bits are `w` in opcode_table.json's default numbering, placed where the next step fetches it,
numbered as the machine's own maps number it (entry 23). -/
def State.withFetchWord (s : State) (nbits w : Nat) : State :=
  s.launchBytes s.pc (windowBytes (s.params.opMaps.ofDefault (tableWindow nbits w)))

end Sys2Proof.Machine
end

