-- ==== Sys2Proof/Safety.lean ====
section
/-! DEFINITION. The terms the statements use: the invariant, what an instruction leaves alone, which instructions may
write what, and the exact integer arithmetic of the rules (written over `Int` and `Nat`, apart from the model's own
bit-vector arithmetic in Machine/Flags.lean). -/

namespace Sys2Proof.Machine

/-! ## The invariant -/

/-- Both byte lists are in canonical form, there is a halt label exactly in a halted machine, an internal register
holds no more than IREG_WIDTH bits (10_state.md R25), and RESET_PC is even (70_reset_and_hazards.md R320). -/
def State.Inv (s : State) : Prop :=
  s.mem.wf = true ∧ s.fetchImage.wf = true ∧ s.haltCause.isSome = s.halted ∧
    (∀ k : Fin 15, (s.iregs[k]).toNat < 2 ^ s.params.iregWidth) ∧ s.params.resetPc.getLsbD 0 = false

/-! ## Frames -/

/-- Every register but those listed reads as before. -/
def RegsKept (s t : State) (written : List Reg) : Prop :=
  ∀ (r : Reg) (npc : Word), r ∉ written → t.readReg npc r = s.readReg npc r

/-- Every byte of memory but those listed reads as before. -/
def MemKept (s t : State) (stored : List Word) : Prop := ∀ a : Word, a ∉ stored → t.mem.read a = s.mem.read a

/-- What is neither register, pc nor memory is as before, the ports and internal registers among it. -/
def RestKept (s t : State) : Prop :=
  t.halted = s.halted ∧ t.haltCause = s.haltCause ∧ t.iregs = s.iregs ∧ t.outputs = s.outputs ∧
    t.inputDraws = s.inputDraws ∧ t.fetchImage = s.fetchImage ∧ t.params = s.params

/-- Only the listed registers and the pc may have changed. -/
def OnlyRegs (s t : State) (written : List Reg) : Prop := RegsKept s t written ∧ MemKept s t [] ∧ RestKept s t

/-- Only the listed bytes of memory and the pc may have changed. -/
def OnlyMem (s t : State) (stored : List Word) : Prop := RegsKept s t [] ∧ MemKept s t stored ∧ RestKept s t

/-- A write to D: a jump where D = 31, `npc` otherwise (10_state.md R19, R20, R21). -/
def WritesOrJumps (s t : State) (npc : Word) (d : Reg) (c : Cell) : Prop :=
  (d ≠ pcReg → t.readReg npc d = c ∧ t.pc = npc) ∧ (d = pcReg → t.pc = c.v) ∧ OnlyRegs s t [d]

/-- A write to D, which is not 31. -/
def WritesD (s t : State) (npc : Word) (d : Reg) (c : Cell) : Prop :=
  t.readReg npc d = c ∧ t.pc = npc ∧ OnlyRegs s t [d]

/-- An arithmetic result `r`: D's cell (where D is not the PC) and the residue cell where there is one. -/
def WritesArith (s t : State) (npc : Word) (d : Reg) (r : Cell × Option Cell) : Prop :=
  (d ≠ pcReg → t.readReg npc d = r.1) ∧ t.readReg npc resReg = r.2.getD (s.readReg npc resReg) ∧
    OnlyRegs s t [d, resReg]

/-! ## Which instructions write, load or store -/

/-- The D field of an instruction that writes D (10_state.md R18); none where D is only read. -/
def destOf : Instr → Option Reg
  | .inn d _ | .bsrn d _ | .ldui d _ | .ldsi d _ | .ldfi d _ | .ldf2i d _ | .shftn d _ | .extctn d _ => some d
  | .ldtn d _ | .addi d _ | .subi d _ | .muli d _ | .divi d _ | .andi d _ | .ori d _ | .xori d _ => some d
  | .mov d _ | .add d _ | .sub d _ | .mul d _ | .div d _ | .and d _ | .or d _ | .xor d _ => some d
  | .ldu8_24 d _ | .ldu16_24 d _ | .lds8_24 d _ | .lds16_24 d _ | .fld8_24 d _ | .fld16_24 d _ => some d
  | .f2ld8_24 d _ | .f2ld16_24 d _ | .lea8_24 d _ | .lea16_24 d _ => some d
  | .add_24 d _ _ | .sub_24 d _ _ | .mul_24 d _ _ | .div_24 d _ _ | .and_24 d _ _ | .or_24 d _ _ => some d
  | .xor_24 d _ _ | .addi_24 d _ _ | .subi_24 d _ _ | .muli_24 d _ _ | .divi_24 d _ _ => some d
  | .andi_24 d _ _ | .ori_24 d _ _ | .xori_24 d _ _ => some d
  | .ldu8_32 d _ | .ldu16_32 d _ | .lds8_32 d _ | .lds16_32 d _ | .fld8_32 d _ | .fld16_32 d _ => some d
  | .f2ld8_32 d _ | .f2ld16_32 d _ | .lea8_32 d _ | .lea16_32 d _ => some d
  | .outn _ _ | .brzn _ _ | .brnzn _ _ | .brpn _ _ | .brmn _ _ | .cmp _ _ | .cmpi _ _ | .sttn _ _ => none
  | .cmp_24 _ _ _ | .cmpi_24 _ _ _ | .st8_24 _ _ | .st16_24 _ _ | .st8_32 _ _ | .st16_32 _ _ => none

/-- The D field of an arithmetic instruction that writes both D and, as a side effect, the Residue register
(10_state.md R16, R30). -/
def arithDestOf : Instr → Option Reg
  | .add d _ | .sub d _ | .mul d _ | .div d _ | .addi d _ | .subi d _ | .muli d _ | .divi d _ => some d
  | .add_24 d _ _ | .sub_24 d _ _ | .mul_24 d _ _ | .div_24 d _ _ => some d
  | .addi_24 d _ _ | .subi_24 d _ _ | .muli_24 d _ _ | .divi_24 d _ _ => some d
  | _ => none

/-- The instructions that write the Residue register as a side effect (10_state.md R16). -/
def writesResidue : Instr → Bool
  | .cmp _ _ | .cmpi _ _ | .cmp_24 _ _ _ | .cmpi_24 _ _ _ => true
  | i => (arithDestOf i).isSome

/-- The D field of an instruction in which D = 31 is an invalid operand whatever the state (60_exceptions.md R294). -/
def noPcDestOf : Instr → Option Reg
  | .inn d _ | .ldfi d _ | .ldf2i d _ | .shftn d _ | .extctn d _ | .ldtn d _ => some d
  | .sub d _ | .subi d _ | .and d _ | .andi d _ | .or d _ | .ori d _ | .xor d _ | .xori d _ => some d
  | .sub_24 d _ _ | .subi_24 d _ _ | .and_24 d _ _ | .andi_24 d _ _ => some d
  | .or_24 d _ _ | .ori_24 d _ _ | .xor_24 d _ _ | .xori_24 d _ _ => some d
  | .ldu8_24 d _ | .lds8_24 d _ | .fld8_24 d _ | .fld16_24 d _ | .f2ld8_24 d _ | .f2ld16_24 d _ => some d
  | .ldu8_32 d _ | .lds8_32 d _ | .fld8_32 d _ | .fld16_32 d _ | .f2ld8_32 d _ | .f2ld16_32 d _ => some d
  | _ => none

/-- The address operand of a 32-bit load, store or LEA. -/
def addr32Of : Instr → Option Addr32
  | .ldu8_32 _ a | .ldu16_32 _ a | .lds8_32 _ a | .lds16_32 _ a | .fld8_32 _ a | .fld16_32 _ a => some a
  | .f2ld8_32 _ a | .f2ld16_32 _ a | .lea8_32 _ a | .lea16_32 _ a | .st8_32 _ a | .st16_32 _ a => some a
  | _ => none

/-- The instructions that may write memory (20_memory.md R41, "data write"). -/
def storesMemory : Instr → Bool
  | .outn _ _ | .sttn _ _ | .st8_24 _ _ | .st16_24 _ _ | .st8_32 _ _ | .st16_32 _ _ => true
  | _ => false

/-- The instructions that may read memory as data (20_memory.md R41, "data read"). -/
def loadsMemory : Instr → Bool
  | .inn _ _ | .ldtn _ _ => true
  | .ldu8_24 _ _ | .ldu16_24 _ _ | .lds8_24 _ _ | .lds16_24 _ _ => true
  | .fld8_24 _ _ | .fld16_24 _ _ | .f2ld8_24 _ _ | .f2ld16_24 _ _ => true
  | .ldu8_32 _ _ | .ldu16_32 _ _ | .lds8_32 _ _ | .lds16_32 _ _ => true
  | .fld8_32 _ _ | .fld16_32 _ _ | .f2ld8_32 _ _ | .f2ld16_32 _ _ => true
  | _ => false

/-- The instructions that reach ports and internal registers (40_io.md R92). -/
def reachesPorts : Instr → Bool
  | .inn _ _ | .outn _ _ => true
  | _ => false

/-- The five branches (41_branch16.md). -/
def isBranch : Instr → Bool
  | .bsrn _ _ | .brzn _ _ | .brnzn _ _ | .brpn _ _ | .brmn _ _ => true
  | _ => false

/-- N of a 16-bit instruction that takes N: these 23 (30_encoding.md R68). -/
def takenN16 : Instr → Option Imm16
  | .inn _ n | .outn _ n | .bsrn _ n | .brzn _ n | .brnzn _ n | .brpn _ n | .brmn _ n => some n
  | .addi _ n | .subi _ n | .muli _ n | .divi _ n | .cmpi _ n | .andi _ n | .ori _ n | .xori _ n => some n
  | .ldui _ n | .ldsi _ n | .ldfi _ n | .ldf2i _ n | .shftn _ n | .extctn _ n | .ldtn _ n | .sttn _ n => some n
  | _ => none

/-- S of a 16-bit instruction that takes S: these 9 (30_encoding.md R68). -/
def takenS16 : Instr → Option Reg
  | .mov _ r | .add _ r | .sub _ r | .mul _ r | .div _ r | .cmp _ r | .and _ r | .or _ r | .xor _ r => some r
  | _ => none

/-- The size of an instruction, by its constructor (00_scope.md R3, 30_encoding.md R72 to R74). -/
def instrFormat : Instr → Format
  | .add_24 _ _ _ | .sub_24 _ _ _ | .mul_24 _ _ _ | .div_24 _ _ _ | .cmp_24 _ _ _ | .and_24 _ _ _ => .b24
  | .or_24 _ _ _ | .xor_24 _ _ _ | .addi_24 _ _ _ | .subi_24 _ _ _ | .muli_24 _ _ _ | .divi_24 _ _ _ => .b24
  | .cmpi_24 _ _ _ | .andi_24 _ _ _ | .ori_24 _ _ _ | .xori_24 _ _ _ => .b24
  | .ldu8_24 _ _ | .ldu16_24 _ _ | .lds8_24 _ _ | .lds16_24 _ _ | .fld8_24 _ _ | .fld16_24 _ _ => .b24
  | .f2ld8_24 _ _ | .f2ld16_24 _ _ | .lea8_24 _ _ | .lea16_24 _ _ | .st8_24 _ _ | .st16_24 _ _ => .b24
  | i => if (addr32Of i).isSome then .b32 else .b16

/-! ## Conditions on a data access -/

/-- A 2-byte data access at `a` is allowed: even, or MISALIGNED_DATA = split (20_memory.md R46). -/
def AlignedFor16 (s : State) (a : Word) : Prop := a.getLsbD 0 = false ∨ s.params.misalignedData = .split

/-- The two bytes of an access at `a` exist (20_memory.md R49). -/
def Present16 (s : State) (a : Word) : Prop :=
  Params.present s.params a = true ∧ Params.present s.params (a + 1#16) = true

/-- What a 2-byte data access at `a` needs. -/
def Accessible16 (s : State) (a : Word) : Prop := AlignedFor16 s a ∧ Present16 s a

/-! ## The rules' integer arithmetic -/

/-- The 0/1 residue of an addition or subtraction (42_alu16.md R108, R109). -/
def residueOf (p : Prop) [Decidable p] : Option Cell := some ⟨if p then 1#16 else 0#16, .u, 0#2⟩

/-- Whether an exact integer is outside the 16-bit signed range. -/
abbrev OutOfS16 (z : Int) : Prop := z < -32768 ∨ 32767 < z

/-- `CmpResult` (42_alu16.md R112): by default -1, 0 or +1 of type S as the first number is less than, equal to or
greater than the second; otherwise the implementation's function, of which nothing is known (entry 19). -/
def exactCmp (p : Params) (x y : Int) (a b : Cell) : Cell :=
  match p.cmpResult with
  | .signed => ⟨BitVec.ofInt 16 (if x < y then -1 else if x = y then 0 else 1), .s, 0#2⟩
  | .other => clearE (Config.cmpResult a.t a.v b.v)

/-- The operation on operands of type U (42_alu16.md R108 to R112, R124): D's value and the residue. A compare writes
no D. -/
def exactU (p : Params) (op : ArithOp) (a b : Cell) : Cell × Option Cell :=
  let m := a.v.toNat
  let n := b.v.toNat
  match op with
  | .add => (⟨BitVec.ofNat 16 (m + n), .u, 0#2⟩, residueOf (65535 < m + n))
  | .sub =>
    (⟨BitVec.ofInt 16 ((m : Int) - (n : Int)), .u, 0#2⟩,
      match p.subCarry with
      | .borrow => residueOf (m < n)
      | .notBorrow => residueOf (n ≤ m))
  | .mul => (⟨BitVec.ofNat 16 (m * n), .u, 0#2⟩, some ⟨BitVec.ofNat 16 (m * n / 65536), .u, 0#2⟩)
  | .div => (⟨(divU b.v a.v).1, .u, 0#2⟩, some ⟨(divU b.v a.v).2, .u, 0#2⟩)
  | .cmp => (default, some (exactCmp p m n a b))

/-- The operation on operands of type S (42_alu16.md R108 to R112, R124). -/
def exactS (p : Params) (op : ArithOp) (a b : Cell) : Cell × Option Cell :=
  let m := a.v.toInt
  let n := b.v.toInt
  match op with
  | .add => (⟨BitVec.ofInt 16 (m + n), .s, 0#2⟩, residueOf (OutOfS16 (m + n)))
  | .sub => (⟨BitVec.ofInt 16 (m - n), .s, 0#2⟩, residueOf (OutOfS16 (m - n)))
  | .mul => (⟨BitVec.ofInt 16 (m * n), .s, 0#2⟩, some ⟨BitVec.ofInt 16 (m * n / 65536), .s, 0#2⟩)
  | .div => (⟨(divS b.v a.v).1, .s, 0#2⟩, some ⟨(divS b.v a.v).2, .s, 0#2⟩)
  | .cmp => (default, some (exactCmp p m n a b))

/-- The operation the operands' types select (42_alu16.md R106). -/
def exactArith (p : Params) (op : ArithOp) (a b : Cell) : Cell × Option Cell :=
  if a.t = b.t then
    match b.t with
    | .u => exactU p op a b
    | .s => exactS p op a b
    | .f | .f2 => Config.floatArith op a b
  else mixedResult op a b

/-- `x` times two to the power `n`, rounded down, modulo 2^16: the shift of SHFTN (43_imm_shift_extract16.md R134). -/
def scaledBy (x n : Int) : Word :=
  BitVec.ofInt 16 (if 0 ≤ n then x * 2 ^ n.toNat else x / 2 ^ (-n).toNat)

/-! ## The shapes of the per-instruction statements -/

/-- `Reg(r)` as the instruction reads it (10_state.md R19). -/
def operand (i : Instr) (s : State) (r : Reg) : Cell := s.readReg (npcOf i s) r

/-- The instruction answers a next state, of which `P` holds. -/
def Completes (i : Instr) (s : State) (P : State → Prop) : Prop := ∃ t, exec i s = .next t ∧ P t

/-- The instruction halts with a label: the state is its own, frozen (60_exceptions.md R290). -/
def HaltsWith (i : Instr) (s : State) (c : HaltCause) : Prop :=
  exec i s = .next { s with halted := true, haltCause := some c }

/-- The operands' types let arithmetic run (42_alu16.md R106). -/
def TypesAllow (s : State) (a b : Cell) : Prop := a.t = b.t ∨ s.params.mixedTypes = true

/-- An arithmetic instruction with operands `a`, `b` and destination `d` writes what the rules say and goes to
`pcAfter` of the result. -/
def ArithCompletes (op : ArithOp) (i : Instr) (s : State) (d : Reg) (a b : Cell) (pcAfter : Cell → Word) : Prop :=
  TypesAllow s a b → d ≠ resReg →
    Completes i s fun t =>
      WritesArith s t (npcOf i s) d (exactArith s.params op a b) ∧ t.pc = pcAfter (exactArith s.params op a b).1

/-- ADD: D = 31 is a jump to the sum (42_alu16.md R108). -/
def AddCompletes (i : Instr) (s : State) (d : Reg) (a b : Cell) : Prop :=
  ArithCompletes .add i s d a b fun r => if d = pcReg then r.v else npcOf i s

/-- SUB: D = 31 is not among its uses (42_alu16.md R109). -/
def SubCompletes (i : Instr) (s : State) (d : Reg) (a b : Cell) : Prop :=
  d ≠ pcReg → ArithCompletes .sub i s d a b fun _ => npcOf i s

/-- MUL: D = 31 only blocks the write to D (42_alu16.md R110). -/
def MulCompletes (i : Instr) (s : State) (d : Reg) (a b : Cell) : Prop :=
  ArithCompletes .mul i s d a b fun _ => npcOf i s

/-- DIV: where there is a divider; D = 31 only blocks the write to D (42_alu16.md R111). -/
def DivCompletes (i : Instr) (s : State) (d : Reg) (a b : Cell) : Prop :=
  s.params.hasDiv = true → ArithCompletes .div i s d a b fun _ => npcOf i s

/-- CMP: nothing but the Residue register is written (42_alu16.md R112). -/
def CmpCompletes (i : Instr) (s : State) (a b : Cell) : Prop :=
  TypesAllow s a b →
    Completes i s fun t =>
      t.readReg (npcOf i s) resReg = (exactArith s.params .cmp a b).2.getD (operand i s resReg) ∧
        t.pc = npcOf i s ∧ OnlyRegs s t [resReg]

/-- AND, OR, XOR: `v` with the tag of `b`, the Residue register unchanged unless it is D (42_alu16.md R113). -/
def LogicCompletes (i : Instr) (s : State) (d : Reg) (v : Word) (b : Cell) : Prop :=
  d ≠ pcReg → Completes i s fun t => WritesD s t (npcOf i s) d ⟨v, b.t, b.e⟩

/-- The type of a 24-bit immediate constant, by IMM24_TYPE_FROM (47_alu24.md R185): that of S, or of the old D. -/
def const24Ty (i : Instr) (s : State) (d x : Reg) : Ty :=
  match s.params.imm24TypeFrom with
  | .s => (operand i s x).t
  | .d => (operand i s d).t

/-- A load of one byte from `ea`: what `conv` makes of it goes to D (45_ldst24.md R146, R148, R150, R152). -/
def Load8Completes (i : Instr) (s : State) (d : Reg) (ea : Except Stop Word) (conv : Byte → Cell) : Prop :=
  ∀ a, ea = .ok a → d ≠ pcReg → Params.present s.params a = true →
    Completes i s fun t => WritesD s t (npcOf i s) d (conv (s.mem.read a))

/-- A load of two bytes from `ea` that is a table jump where D = 31 (45_ldst24.md R147, R149). -/
def Load16Completes (i : Instr) (s : State) (d : Reg) (ea : Except Stop Word) (t : Ty) : Prop :=
  ∀ a, ea = .ok a → Accessible16 s a →
    Completes i s fun t' =>
      WritesOrJumps s t' (npcOf i s) d ⟨s.mem.read (a + 1#16) ++ s.mem.read a, t, 0#2⟩

/-- A load of two bytes from `ea` in a float format (45_ldst24.md R151, R153). -/
def LoadFloat16Completes (i : Instr) (s : State) (d : Reg) (ea : Except Stop Word) (ty : FloatTy) : Prop :=
  ∀ a, ea = .ok a → d ≠ pcReg → Accessible16 s a →
    Completes i s fun t =>
      WritesD s t (npcOf i s) d
        (floatCell ty (Config.floatFromMem16 ty (s.mem.read (a + 1#16) ++ s.mem.read a)))

/-- LEA: the address itself, type U (45_ldst24.md R154, R155). -/
def LeaCompletes (i : Instr) (s : State) (d : Reg) (ea : Except Stop Word) : Prop :=
  ∀ a, ea = .ok a → Completes i s fun t => WritesOrJumps s t (npcOf i s) d ⟨a, .u, 0#2⟩

/-- A store of one byte at `ea` (45_ldst24.md R156, R158). -/
def Store8Completes (i : Instr) (s : State) (d : Reg) (ea : Except Stop Word) : Prop :=
  ∀ a, ea = .ok a → Params.present s.params a = true →
    Completes i s fun t =>
      t.mem.read a = storeData8 (operand i s d) ∧ t.pc = npcOf i s ∧ OnlyMem s t [a]

/-- A store of two bytes at `ea`, little-endian (45_ldst24.md R157, R158; 20_memory.md R43). -/
def Store16Completes (i : Instr) (s : State) (d : Reg) (ea : Except Stop Word) : Prop :=
  ∀ a, ea = .ok a → Accessible16 s a →
    Completes i s fun t =>
      t.mem.read a = (storeData16 (operand i s d)).extractLsb' 0 8 ∧
        t.mem.read (a + 1#16) = (storeData16 (operand i s d)).extractLsb' 8 8 ∧
          t.pc = npcOf i s ∧ OnlyMem s t [a, a + 1#16]

/-- EA of a 24-bit access as the instruction computes it (45_ldst24.md R145). -/
def eaOf24 (i : Instr) (s : State) (ds : Word) (a : Addr24) : Except Stop Word := .ok (ea24 s (npcOf i s) ds a)

/-- EA of a 32-bit access as the instruction computes it (46_ldst32.md R165). -/
def eaOf32 (i : Instr) (s : State) (ds : Word) (a : Addr32) : Except Stop Word := ea32 s (npcOf i s) ds a

end Sys2Proof.Machine
end

