-- ==== Sys2Proof/Certificates/Slice0/Obligations.lean ====
section
/-! DEFINITION. The statements for the provers. Each docstring names the rule of the spec it formalises. The opcode
numbers, the byte order of data and the other points marked [decision] in the spec are the spec's own choices, not the
source's; statements that rest on one are 'derived' and say so. Where such a choice is a parameter of the model
(00_scope.md R4), a statement about every state holds for every value of it. -/

open Sys2Proof Sys2Proof.Machine

/-! ## Encoding and decoding -/

/-- 30_encoding.md R60 to R76: under any opcode maps the bytes of every well-formed instruction decode to it, whatever
bytes follow. The default numbering is the spec's decisions D11, D12, D13 (entry 17). -/
def Obligations.DecodeEncodeRoundTrip : Prop :=
  ∀ (m : OpMaps) (i : Instr) (rest : List Byte), i.WellFormed → decodeBy m (encodeBy m i ++ rest) = .ok i

/-- 30_encoding.md R60 to R76: under any opcode maps a window that decodes is, on the bits the instruction has (its
padding byte and the bits above it left out), the encoding of what it decodes to, and that is well formed. The default
numbering is the spec's decisions (entry 17), the ignored padding byte is decision D7 (entry 21). -/
def Obligations.AcceptedWindowIsItsEncoding : Prop :=
  ∀ (m : OpMaps) (w : BitVec 32) (i : Instr), decodeWindowBy m w = .ok i →
    i.WellFormed ∧ m.ofDefault i.window = tableWindow (8 * fetchLengthBy m w) w.toNat

/-- 30_encoding.md R67: N of a 16-bit instruction that takes N, and its footprint, by the field in bits 15:11; the
short range is -15 to +15; a long immediate in that range means the same N. Under any opcode maps. -/
def Obligations.ShortAndLongImmediates : Prop :=
  (∀ (m : OpMaps) (w : BitVec 32) (i : Instr) (n : Imm16), formatOf w = .b16 → decodeWindowBy m w = .ok i →
    takenN16 i = some n →
      (fieldS w = 0b10000#5 → n16Of16 n = w.extractLsb' 16 16 ∧ i.ilen = 4) ∧
        (fieldS w ≠ 0b10000#5 →
          (n16Of16 n).toInt = (fieldS w).toInt ∧ -15 ≤ (n16Of16 n).toInt ∧ (n16Of16 n).toInt ≤ 15 ∧ i.ilen = 2)) ∧
    ∀ x : Word, -15 ≤ x.toInt → x.toInt ≤ 15 →
      ∃ m : BitVec 5, (Imm16.short m).wf = true ∧ n16Of16 (.short m) = n16Of16 (.long x)

/-- 30_encoding.md R68: the opcode alone fixes whether bits 15:11 are N (these 23) or S (these 9), and for the 9 the
field 0b10000 is register 16 and no extension follows. Under any opcode maps. -/
def Obligations.OpcodeFixesWhetherTopIsNOrS : Prop :=
  ∀ (m : OpMaps) (w : BitVec 32), formatOf w = .b16 →
    ∃ i, decodeWindowBy m w = .ok i ∧ (takenN16 i).isSome = takesN16 (unrenumber m.op16 (fieldOp5 w)) ∧
      ((takenN16 i = some (imm16Of w) ∧ takenS16 i = none) ∨
        (takenS16 i = some (fieldS w) ∧ takenN16 i = none ∧ i.ilen = 2))

/-- 30_encoding.md R60: the two lowest bits of the first half word tell the size. Under any opcode maps. -/
def Obligations.LengthCodeTellsTheSize : Prop :=
  ∀ (m : OpMaps) (w : BitVec 32) (i : Instr), decodeWindowBy m w = .ok i →
    (w.getLsbD 0 = true → instrFormat i = .b16) ∧
      (w.getLsbD 0 = false → w.getLsbD 1 = true → instrFormat i = .b24) ∧
        (w.getLsbD 0 = false → w.getLsbD 1 = false → instrFormat i = .b32)

/-- 30_encoding.md R75 (a), (b), 48_named_only.md R206: unassigned opcodes and absent data sizes are no instruction,
whatever the other fields hold. Opcodes are named by their numbers in the default maps, the spec's decisions D12, D13,
D40 (entry 17); `m` is any maps. -/
def Obligations.UnassignedOpcodesAreRejected : Prop :=
  (∀ (m : OpMaps) (w : BitVec 32) (o : BitVec 6), formatOf w = .b24 → fieldOp6 w = renumber m.op24 o →
    (o ∈ [2#6, 3#6, 6#6, 7#6, 10#6, 11#6, 14#6, 15#6, 18#6, 19#6, 22#6, 23#6] ∨ 32 ≤ o.toNat) →
      decodeWindowBy m w = .error .unassigned) ∧
    ∀ (m : OpMaps) (w : BitVec 32) (opC : BitVec 3) (o : BitVec 6), formatOf w = .b32 →
      fieldOp9 w = renumber m.op32 (opC ++ o) →
        (o ∉ [0#6, 1#6, 4#6, 5#6, 8#6, 9#6, 12#6, 13#6, 16#6, 17#6, 20#6, 21#6] ∨ opC.msb = true) →
          decodeWindowBy m w = .error .unassigned

/-- 30_encoding.md R69, R70, R76 (c): the reserved immediate codes of an assigned opcode, `110xx` in the 24-bit
format, `0NNNN` and `110xx` in the 32-bit format. Decisions D14, D15 (entry 22). Opcodes are named by their numbers in
the default maps (decisions D12, D13; entry 17); `m` is any maps. -/
def Obligations.ReservedImmediateCodesAreRejected : Prop :=
  (∀ (m : OpMaps) (w : BitVec 32) (o : BitVec 6), formatOf w = .b24 → fieldOp6 w = renumber m.op24 o →
    o ∉ [2#6, 3#6, 6#6, 7#6, 10#6, 11#6, 14#6, 15#6, 18#6, 19#6, 22#6, 23#6] → o.toNat < 32 →
      fieldIe w = true → (fieldR w).extractLsb' 2 3 = 0b110#3 → decodeWindowBy m w = .error .reservedImmediate) ∧
    ∀ (m : OpMaps) (w : BitVec 32) (opC : BitVec 3) (o : BitVec 6), formatOf w = .b32 →
      fieldOp9 w = renumber m.op32 (opC ++ o) →
        o ∈ [0#6, 1#6, 4#6, 5#6, 8#6, 9#6, 12#6, 13#6, 16#6, 17#6, 20#6, 21#6] → opC.msb = false →
          fieldIe w = true → ((fieldT w).extractLsb' 2 3 = 0b110#3 ∨ (fieldT w).msb = false) →
            decodeWindowBy m w = .error .reservedImmediate

/-- 30_encoding.md section 6, R72 to R74: a few words written out bit by bit decode to the instruction they stand for
under the default maps, the spec's decisions (entry 17). -/
def Obligations.WrittenOutWordsDecode : Prop :=
  decodeTableWord 16 0b0000100010010001 = some (.add 2#5 1#5) ∧
    decodeTableWord 16 0b1111100001100001 = some (.addi 1#5 (.short 0b11111#5)) ∧
      decodeTableWord 24 0b001010000010000011000110 = some (.ldu16_24 3#5 ⟨4#5, .index 5#5⟩) ∧
        decodeTableWord 24 0b101111010010000011100010 = some (.addi_24 3#5 4#5 (.short 0b0111#4)) ∧
          decodeTableWord 32 0b00110001001010000010000011000100 = some (.ldu16_32 3#5 ⟨4#5, 5#5, 1#2, .reg 6#5⟩)

/-! ## Steps -/

/-- 00_scope.md R7, 30_encoding.md R66: when the bytes at the program counter decode to a well-formed instruction, the
step is that instruction's execution; nothing is added around it. The machine decodes by its own opcode maps (entry 17). -/
def Obligations.StepRunsTheDecodedInstruction : Prop :=
  ∀ (s : State) (bs : List Byte) (i : Instr), s.halted = false → s.fetch = .ok bs →
    decodeBy s.params.opMaps bs = .ok i → i.WellFormed → step s = exec i s

/-- 00_scope.md R7, 30_encoding.md R66: where a fetch sees, at an even pc, the bytes of a well-formed instruction, the
step is that instruction's execution. (Fetch and data share one memory by decision D1; entry 8. The
encoding is by the machine's own opcode maps; entry 17.) -/
def Obligations.EncodedBytesAtPcAreExecuted : Prop :=
  ∀ (s : State) (i : Instr), s.halted = false → s.pc.getLsbD 0 = false → i.WellFormed →
    (∀ k, k < i.ilen → Params.present s.params (s.pc + BitVec.ofNat 16 k) = true) →
      (∀ k, k < i.ilen → s.fetchMem.read (s.pc + BitVec.ofNat 16 k) = (encodeBy s.params.opMaps i).getD k 0#8) →
        step s = exec i s

/-- 60_exceptions.md R291, R294, R298 (2, 3): bytes at the program counter that are no instruction halt the machine,
with the label of their kind. -/
def Obligations.NoInstructionHalts : Prop :=
  ∀ (s : State) (bs : List Byte), s.halted = false → s.fetch = .ok bs →
    (decodeBy s.params.opMaps bs = .error .unassigned →
      step s = .next { s with halted := true, haltCause := some .unimplementedInstruction }) ∧
      (decodeBy s.params.opMaps bs = .error .reservedImmediate →
        step s = .next { s with halted := true, haltCause := some .invalidOperand })

/-- 60_exceptions.md R293, 20_memory.md R45: a fetch at an odd pc halts, pc frozen at the odd value (decision D4). -/
def Obligations.OddPcHalts : Prop :=
  ∀ s : State, s.halted = false → s.pc.getLsbD 0 = true →
    step s = .next { s with halted := true, haltCause := some .misalignedFetch }

/-- 60_exceptions.md R290: "Once `halted` is true the core executes no further instruction; every later step leaves
the whole state unchanged." Stated of any number of steps. -/
def Obligations.HaltedMachineNeverChanges : Prop :=
  ∀ (s : State) (k : Nat), s.halted = true → Sys2Proof.core.run k s = .next s

/-- 60_exceptions.md R290: the halt is precise: a step that halts a running machine leaves everything as it was, the
pc at the offending instruction among it, but for `halted` (and the model's label, entry 6). Decision D25. -/
def Obligations.HaltIsPrecise : Prop :=
  ∀ s t : State, s.halted = false → step s = .next t → t.halted = true →
    ∃ c : HaltCause, t = { s with halted := true, haltCause := some c }

/-- The model's invariant (Safety.lean: canonical byte lists, a label exactly in a halted machine, internal registers
of IREG_WIDTH bits, 10_state.md R25, RESET_PC even; entries 3, 4, 6, 8, 20) is kept by every step. -/
def Obligations.EveryStepKeepsTheInvariant : Prop :=
  ∀ s t : State, s.Inv → step s = .next t → t.Inv

/-- 70_reset_and_hazards.md R320: after reset a machine with any parameters runs, at its RESET_PC, which "must be
even"; the invariant holds. (With the default parameters that is State.reset, at 0x0000: decision D29, entry 3.) -/
def Obligations.ResetStateIsGood : Prop :=
  (∀ p : Params, p.resetPc.getLsbD 0 = false →
    (State.resetWith p).Inv ∧ (State.resetWith p).halted = false ∧ (State.resetWith p).pc = p.resetPc ∧
      (State.resetWith p).params = p) ∧
    State.reset.Inv ∧ State.reset.halted = false ∧ State.reset.pc = 0x0000#16

/-- 60_exceptions.md R301, 70_reset_and_hazards.md R320, R322: reset starts any machine at its RESET_PC, an even
address, out of a halt too, and clears no memory; the invariant is kept. (Decisions D25, D29; entries 3, 24.) -/
def Obligations.ResetLeavesTheHalt : Prop :=
  ∀ s : State, s.Inv →
    s.resetEvent.halted = false ∧ s.resetEvent.pc = s.params.resetPc ∧ s.resetEvent.pc.getLsbD 0 = false ∧
      MemKept s s.resetEvent [] ∧ s.resetEvent.Inv

/-- 60_exceptions.md R297, 20_memory.md R49, R51: where every byte of the address space exists no step faults,
whatever the state. -/
def Obligations.NoFaultWhereEveryByteExists : Prop :=
  ∀ (s : State) (r : Fault), s.params.absent = [] → step s ≠ .fault r

/-- 10_state.md R30: the model refuses nothing but a second write to the Residue register (decision D23, entry 14). -/
def Obligations.OnlyDoubleResidueWritesAreRefused : Prop :=
  ∀ (i : Instr) (s : State) (r : Refusal), exec i s = .refused r →
    r = .residueWrittenTwice ∧ arithDestOf i = some resReg

/-- 10_state.md R30: D = 28 in ADD, SUB, MUL, DIV and their I forms, in both formats, has no meaning, once the checks
before it (42_alu16.md R105, 47_alu24.md R185) pass: the model refuses it (decision D23, entry 14; the constant's type
under IMM24_TYPE_FROM = D: entry 27). -/
def Obligations.ResidueDestinationIsRefused : Prop :=
  (∀ (r : Reg) (s : State), TypesAllow s (operand (.add resReg r) s r) (operand (.add resReg r) s resReg) →
    exec (.add resReg r) s = .refused .residueWrittenTwice ∧ exec (.sub resReg r) s = .refused .residueWrittenTwice ∧
      exec (.mul resReg r) s = .refused .residueWrittenTwice ∧
        (s.params.hasDiv = true → exec (.div resReg r) s = .refused .residueWrittenTwice)) ∧
    (∀ (n : Imm16) (s : State),
      exec (.addi resReg n) s = .refused .residueWrittenTwice ∧ exec (.subi resReg n) s = .refused .residueWrittenTwice ∧
        exec (.muli resReg n) s = .refused .residueWrittenTwice ∧
          (s.params.hasDiv = true → exec (.divi resReg n) s = .refused .residueWrittenTwice)) ∧
      (∀ (x r : Reg) (s : State),
        TypesAllow s (operand (.add_24 resReg x r) s r) (operand (.add_24 resReg x r) s x) →
          exec (.add_24 resReg x r) s = .refused .residueWrittenTwice ∧
            exec (.sub_24 resReg x r) s = .refused .residueWrittenTwice ∧
              exec (.mul_24 resReg x r) s = .refused .residueWrittenTwice ∧
                (s.params.hasDiv = true → exec (.div_24 resReg x r) s = .refused .residueWrittenTwice)) ∧
        ∀ (x : Reg) (n : Imm24) (s : State),
          TypesAllow s (imm24Cell n (const24Ty (.addi_24 resReg x n) s resReg x)) (operand (.addi_24 resReg x n) s x) →
            exec (.addi_24 resReg x n) s = .refused .residueWrittenTwice ∧
              exec (.subi_24 resReg x n) s = .refused .residueWrittenTwice ∧
                exec (.muli_24 resReg x n) s = .refused .residueWrittenTwice ∧
                  (s.params.hasDiv = true → exec (.divi_24 resReg x n) s = .refused .residueWrittenTwice)

/-! ## Rules over all instructions -/

/-- 10_state.md R16, R18: an instruction writes no general register but its D, and, if it is one of the twenty of R16,
the Residue register. -/
def Obligations.OnlyDAndResidueAreWritten : Prop :=
  ∀ (i : Instr) (s t : State), exec i s = .next t →
    ∀ (r : Reg) (npc : Word), destOf i ≠ some r → (writesResidue i = true → r ≠ resReg) →
      t.readReg npc r = s.readReg npc r

/-- 20_memory.md R41: no byte of memory is changed but by OUTN, STTN, ST8 and ST16. -/
def Obligations.OnlyStoresChangeMemory : Prop :=
  ∀ (i : Instr) (s t : State), exec i s = .next t → storesMemory i = false → MemKept s t []

/-- 20_memory.md R41: an instruction that is neither a data read nor a data write (LEA8 and LEA16 among them) does the
same whatever memory holds, and leaves it as it is. -/
def Obligations.OtherInstructionsIgnoreMemory : Prop :=
  ∀ (i : Instr) (s t : State) (m : Memory), loadsMemory i = false → storesMemory i = false → exec i s = .next t →
    exec i { s with mem := m } = .next { t with mem := m }

/-- 40_io.md R92: only INN and OUTN reach ports and internal registers: any other instruction leaves them as they are and
does the same whatever the internal registers hold, what was output and how many inputs were drawn (entries 9, 10). -/
def Obligations.OnlyInnAndOutnReachPorts : Prop :=
  ∀ (i : Instr) (s t : State), exec i s = .next t → reachesPorts i = false →
    (t.iregs = s.iregs ∧ t.outputs = s.outputs ∧ t.inputDraws = s.inputDraws) ∧
      ∀ (v : Vector Word 15) (l : List PortWrite) (n : Nat),
        exec i { s with iregs := v, outputs := l, inputDraws := n } =
          .next { t with iregs := v, outputs := l, inputDraws := n }

/-- 10_state.md R26, 20_memory.md R52: outputs are recorded in program order: a step adds at most one, at the end. -/
def Obligations.OutputsAreRecordedInOrder : Prop :=
  ∀ s t : State, step s = .next t → ∃ l : List PortWrite, l.length ≤ 1 ∧ t.outputs = s.outputs ++ l

/-- The model's parameters and the launch's bytes are changed by no step (entries 5, 8). -/
def Obligations.ParametersAndLaunchBytesAreFixed : Prop :=
  ∀ s t : State, step s = .next t → t.params = s.params ∧ t.fetchImage = s.fetchImage

/-- 10_state.md R20, 41_branch16.md R101: an instruction that neither branches nor has D = 31 and does not halt ends
at the next sequential instruction. -/
def Obligations.PcAdvancesUnlessWritten : Prop :=
  ∀ (i : Instr) (s t : State), exec i s = .next t → s.halted = false → t.halted = false → isBranch i = false →
    destOf i ≠ some pcReg → t.pc = s.pc + BitVec.ofNat 16 i.ilen

/-- 10_state.md R21, R22, 60_exceptions.md R294: the PC as D where that is not allowed, the PC as D of a MOV from a
float-typed register, the PC as offset register T: each is an invalid operand (decisions D24, D37). -/
def Obligations.InvalidUsesOfThePcHalt : Prop :=
  (∀ (i : Instr) (s : State), noPcDestOf i = some pcReg → HaltsWith i s .invalidOperand) ∧
    (∀ (r : Reg) (s : State), (operand (.mov pcReg r) s r).t = .f ∨ (operand (.mov pcReg r) s r).t = .f2 →
      HaltsWith (.mov pcReg r) s .invalidOperand) ∧
      ∀ (i : Instr) (a : Addr32) (s : State), addr32Of i = some a → a.x = .reg pcReg → HaltsWith i s .invalidOperand

/-- 42_alu16.md R106, 60_exceptions.md R291: arithmetic on two types is unimplemented where MIXED_TYPES is false; SUB
with D = 31 is left out, an invalid operand before that (R298). (MIXED_TYPES = false is decision D21, entry 5.) The
24-bit immediate forms can mix types only under IMM24_TYPE_FROM = D (decision D36): there the constant takes the type
of the register in the D field, CMPI's too, although R191 and U20 call that field ignored (entries 21 and 27, DEDUCED:
the model's reading). -/
def Obligations.MixedTypesHalt : Prop :=
  (∀ (d r : Reg) (s : State), s.params.mixedTypes = false →
    (operand (.add d r) s r).t ≠ (operand (.add d r) s d).t →
      HaltsWith (.add d r) s .unimplementedInstruction ∧ HaltsWith (.mul d r) s .unimplementedInstruction ∧
        HaltsWith (.div d r) s .unimplementedInstruction ∧ HaltsWith (.cmp d r) s .unimplementedInstruction ∧
          (d ≠ pcReg → HaltsWith (.sub d r) s .unimplementedInstruction)) ∧
    (∀ (d x r : Reg) (s : State), s.params.mixedTypes = false →
      (operand (.add_24 d x r) s r).t ≠ (operand (.add_24 d x r) s x).t →
        HaltsWith (.add_24 d x r) s .unimplementedInstruction ∧ HaltsWith (.mul_24 d x r) s .unimplementedInstruction ∧
          HaltsWith (.div_24 d x r) s .unimplementedInstruction ∧ HaltsWith (.cmp_24 d x r) s .unimplementedInstruction ∧
            (d ≠ pcReg → HaltsWith (.sub_24 d x r) s .unimplementedInstruction)) ∧
      ∀ (d x : Reg) (n : Imm24) (s : State), s.params.mixedTypes = false →
        const24Ty (.addi_24 d x n) s d x ≠ (operand (.addi_24 d x n) s x).t →
          HaltsWith (.addi_24 d x n) s .unimplementedInstruction ∧ HaltsWith (.muli_24 d x n) s .unimplementedInstruction ∧
            HaltsWith (.divi_24 d x n) s .unimplementedInstruction ∧
              HaltsWith (.cmpi_24 d x n) s .unimplementedInstruction ∧
                (d ≠ pcReg → HaltsWith (.subi_24 d x n) s .unimplementedInstruction)

/-- 30_encoding.md R75 (c), 60_exceptions.md R291: without a divider DIV and DIVI are unimplemented in every format,
whatever the operands. -/
def Obligations.DivisionWithoutDividerHalts : Prop :=
  (∀ (d r : Reg) (s : State), s.params.hasDiv = false → HaltsWith (.div d r) s .unimplementedInstruction) ∧
    (∀ (d : Reg) (n : Imm16) (s : State), s.params.hasDiv = false →
      HaltsWith (.divi d n) s .unimplementedInstruction) ∧
      (∀ (d x r : Reg) (s : State), s.params.hasDiv = false →
        HaltsWith (.div_24 d x r) s .unimplementedInstruction) ∧
        ∀ (d x : Reg) (n : Imm24) (s : State), s.params.hasDiv = false →
          HaltsWith (.divi_24 d x n) s .unimplementedInstruction

/-- 20_memory.md R46, 60_exceptions.md R295: a 2-byte data access at an odd address halts where MISALIGNED_DATA is
halt, in every instruction that makes one (decision D3, entry 5). -/
def Obligations.OddDataAddressHalts : Prop :=
  ∀ s : State, s.params.misalignedData = .halt →
    (∀ (d : Reg) (n : Imm16), (n16Of16 n).toInt < -15 ∨ 15 < (n16Of16 n).toInt → (n16Of16 n).getLsbD 0 = true →
      HaltsWith (.outn d n) s .misalignedData ∧ (d ≠ pcReg → HaltsWith (.inn d n) s .misalignedData)) ∧
      (∀ (d : Reg) (n : Imm16), (n16Of16 n).getLsbD 0 = true →
        HaltsWith (.sttn d n) s .misalignedData ∧ (d ≠ pcReg → HaltsWith (.ldtn d n) s .misalignedData)) ∧
        (∀ (d : Reg) (a : Addr24), (ea24 s (npcOf (.ldu16_24 d a) s) 2#16 a).getLsbD 0 = true →
          HaltsWith (.ldu16_24 d a) s .misalignedData ∧ HaltsWith (.lds16_24 d a) s .misalignedData ∧
            HaltsWith (.st16_24 d a) s .misalignedData ∧
              (d ≠ pcReg → HaltsWith (.fld16_24 d a) s .misalignedData ∧ HaltsWith (.f2ld16_24 d a) s .misalignedData)) ∧
          ∀ (d : Reg) (a : Addr32) (e : Word), ea32 s (npcOf (.ldu16_32 d a) s) 2#16 a = .ok e → e.getLsbD 0 = true →
            HaltsWith (.ldu16_32 d a) s .misalignedData ∧ HaltsWith (.lds16_32 d a) s .misalignedData ∧
              HaltsWith (.st16_32 d a) s .misalignedData ∧
                (d ≠ pcReg → HaltsWith (.fld16_32 d a) s .misalignedData ∧ HaltsWith (.f2ld16_32 d a) s .misalignedData)

/-! ## Memory -/

/-- 20_memory.md R43, R44: a byte store changes only its own byte; after a half-word store the byte at the address
reads bits 7:0 and the byte at the next address, wrapped, bits 15:8, and no other byte changes (decision D2). -/
def Obligations.StoredBytesReadBack : Prop :=
  (∀ (m : Memory) (a b : Word) (x : Byte), (m.write a x).read b = if b = a then x else m.read b) ∧
    ∀ (m : Memory) (a b v : Word),
      (m.write16 a v).read b =
        if b = a then v.extractLsb' 0 8 else if b = a + 1#16 then v.extractLsb' 8 8 else m.read b

/-- 45_ldst24.md R145, 46_ldst32.md R165, 20_memory.md R50: the effective addresses, exactly, modulo 2^16: base plus
scaled index or plus signed offset; the PC as index is zero (decisions D8, D13, D37). -/
def Obligations.EffectiveAddresses : Prop :=
  (∀ (s : State) (npc ds : Word) (x r : Reg),
    ea24 s npc ds ⟨x, .index r⟩ =
      BitVec.ofNat 16 ((s.readReg npc x).v.toNat + (if r = pcReg then 0 else (s.readReg npc r).v.toNat) * ds.toNat)) ∧
    (∀ (s : State) (npc ds : Word) (x : Reg) (n : BitVec 4),
      ea24 s npc ds ⟨x, .offset (.short n)⟩ = BitVec.ofInt 16 ((s.readReg npc x).v.toNat + n.toInt)) ∧
      (∀ (s : State) (npc ds : Word) (x : Reg) (n : BitVec 12),
        ea24 s npc ds ⟨x, .offset (.long n)⟩ = BitVec.ofInt 16 ((s.readReg npc x).v.toNat + n.toInt)) ∧
        (∀ (s : State) (npc ds : Word) (x r t : Reg) (y1 : BitVec 2), t ≠ pcReg →
          ea32 s npc ds ⟨x, r, y1, .reg t⟩ =
            .ok (BitVec.ofNat 16 ((s.readReg npc x).v.toNat +
              (if r = pcReg then 0 else (s.readReg npc r).v.toNat) * ds.toNat * (y1.toNat + 1) +
                (s.readReg npc t).v.toNat))) ∧
          ∀ (s : State) (npc ds : Word) (x r : Reg) (y1 : BitVec 2) (n : BitVec 4),
            ea32 s npc ds ⟨x, r, y1, .imm n⟩ =
              .ok (BitVec.ofInt 16 ((s.readReg npc x).v.toNat +
                ((if r = pcReg then 0 else (s.readReg npc r).v.toNat) * ds.toNat * (y1.toNat + 1) : Nat) + n.toInt))

/-! ## Ports and internal registers -/

/-- 40_io.md R90: INN from an input port (the port supplies the next free value), from an internal register, from
memory; D gets type U (decisions D27, D43; entries 9, 20). IREG_MAP says which internal register N = -k is. -/
def Obligations.InnResult : Prop :=
  ∀ (d : Reg) (n : Imm16) (s : State), d ≠ pcReg →
    (∀ k : Fin 16, (n16Of16 n).toInt = k.val → Completes (.inn d n) s fun t =>
      t.readReg (npcOf (.inn d n) s) d = ⟨Config.portIn k s.inputDraws, .u, 0#2⟩ ∧ t.pc = npcOf (.inn d n) s ∧
        t.inputDraws = s.inputDraws + 1 ∧ OnlyRegs s { t with inputDraws := s.inputDraws } [d]) ∧
      (∀ k : Fin 15, (n16Of16 n).toInt = -((k.val : Int) + 1) → Completes (.inn d n) s fun t =>
        WritesD s t (npcOf (.inn d n) s) d ⟨s.iregs[Params.iregPlace s.params k], .u, 0#2⟩) ∧
        ((n16Of16 n).toInt < -15 ∨ 15 < (n16Of16 n).toInt → Accessible16 s (n16Of16 n) →
          Completes (.inn d n) s fun t =>
            WritesD s t (npcOf (.inn d n) s) d
              ⟨s.mem.read (n16Of16 n + 1#16) ++ s.mem.read (n16Of16 n), .u, 0#2⟩)

/-- 40_io.md R91: OUTN of D's sixteen data bits to an output port, to an internal register (its low IREG_WIDTH bits),
to memory; D = 31 is `npc` (decisions D27, D43; entries 10, 20). IREG_MAP says which internal register N = -k is. -/
def Obligations.OutnResult : Prop :=
  ∀ (d : Reg) (n : Imm16) (s : State),
    (∀ k : Fin 16, (n16Of16 n).toInt = k.val → Completes (.outn d n) s fun t =>
      t.outputs = s.outputs ++ [⟨k, (operand (.outn d n) s d).v⟩] ∧ t.pc = npcOf (.outn d n) s ∧
        OnlyRegs s { t with outputs := s.outputs } []) ∧
      (∀ k : Fin 15, (n16Of16 n).toInt = -((k.val : Int) + 1) → Completes (.outn d n) s fun t =>
        (t.iregs[Params.iregPlace s.params k]).toNat =
            (operand (.outn d n) s d).v.toNat % 2 ^ s.params.iregWidth ∧
          (∀ j : Fin 15, j ≠ Params.iregPlace s.params k → t.iregs[j] = s.iregs[j]) ∧ t.pc = npcOf (.outn d n) s ∧
            OnlyRegs s { t with iregs := s.iregs } []) ∧
        ((n16Of16 n).toInt < -15 ∨ 15 < (n16Of16 n).toInt → Accessible16 s (n16Of16 n) →
          Completes (.outn d n) s fun t =>
            t.mem.read (n16Of16 n) = (operand (.outn d n) s d).v.extractLsb' 0 8 ∧
              t.mem.read (n16Of16 n + 1#16) = (operand (.outn d n) s d).v.extractLsb' 8 8 ∧
                t.pc = npcOf (.outn d n) s ∧ OnlyMem s t [n16Of16 n, n16Of16 n + 1#16])

/-! ## Control -/

/-- 41_branch16.md R95, R96: BSRN links the next instruction's address (D = 31: no link) and branches to it plus the
scaled displacement, modulo 2^16 (decisions D5, D6; entry 18). -/
def Obligations.BsrnResult : Prop :=
  ∀ (d : Reg) (n : Imm16) (s : State), Completes (.bsrn d n) s fun t =>
    (d ≠ pcReg → t.readReg (npcOf (.bsrn d n) s) d = ⟨npcOf (.bsrn d n) s, .u, 0#2⟩) ∧
      t.pc = BitVec.ofInt 16 ((npcOf (.bsrn d n) s).toNat + s.params.branchScale.toNat * (n16Of16 n).toInt) ∧
        OnlyRegs s t [d]

/-- 41_branch16.md R95, R97, R98: BRZN and BRNZN, by the data bits of a register of type U or S, by FloatTest of one of
type F or F2 (decisions D5, D6, D35; entries 11, 18). -/
def Obligations.ZeroBranchesResult : Prop :=
  ∀ (d : Reg) (n : Imm16) (s : State) (zero : Prop),
    (zero ↔ if (operand (.brzn d n) s d).t = .u ∨ (operand (.brzn d n) s d).t = .s
      then (operand (.brzn d n) s d).v = 0#16 else (Config.floatTest (operand (.brzn d n) s d)).1 = true) →
      (zero → Completes (.brzn d n) s fun t =>
        t.pc = BitVec.ofInt 16 ((npcOf (.brzn d n) s).toNat + s.params.branchScale.toNat * (n16Of16 n).toInt) ∧
          OnlyRegs s t []) ∧
        (¬zero → Completes (.brzn d n) s fun t => t.pc = npcOf (.brzn d n) s ∧ OnlyRegs s t []) ∧
          (¬zero → Completes (.brnzn d n) s fun t =>
            t.pc = BitVec.ofInt 16 ((npcOf (.brnzn d n) s).toNat + s.params.branchScale.toNat * (n16Of16 n).toInt) ∧
              OnlyRegs s t []) ∧
            (zero → Completes (.brnzn d n) s fun t => t.pc = npcOf (.brnzn d n) s ∧ OnlyRegs s t [])

/-- 41_branch16.md R95, R99, R100: BRPN and BRMN: type U is never negative, type S by its sign, F and F2 by FloatTest
(decisions D5, D6, D35; 90_conflicts.md C1; entries 11, 18). -/
def Obligations.SignBranchesResult : Prop :=
  ∀ (d : Reg) (n : Imm16) (s : State) (neg : Prop),
    (neg ↔ ((operand (.brpn d n) s d).t = .s ∧ (operand (.brpn d n) s d).v.toInt < 0) ∨
      (((operand (.brpn d n) s d).t = .f ∨ (operand (.brpn d n) s d).t = .f2) ∧
        (Config.floatTest (operand (.brpn d n) s d)).2 = true)) →
      (¬neg → Completes (.brpn d n) s fun t =>
        t.pc = BitVec.ofInt 16 ((npcOf (.brpn d n) s).toNat + s.params.branchScale.toNat * (n16Of16 n).toInt) ∧
          OnlyRegs s t []) ∧
        (neg → Completes (.brpn d n) s fun t => t.pc = npcOf (.brpn d n) s ∧ OnlyRegs s t []) ∧
          (neg → Completes (.brmn d n) s fun t =>
            t.pc = BitVec.ofInt 16 ((npcOf (.brmn d n) s).toNat + s.params.branchScale.toNat * (n16Of16 n).toInt) ∧
              OnlyRegs s t []) ∧
            (¬neg → Completes (.brmn d n) s fun t => t.pc = npcOf (.brmn d n) s ∧ OnlyRegs s t [])

/-! ## Move, arithmetic and logic -/

/-- 42_alu16.md R107: MOV copies all twenty bits, and to the PC is a jump to the data bits of a register that is not
float-typed (decision D24). -/
def Obligations.MovResult : Prop :=
  ∀ (d r : Reg) (s : State),
    d ≠ pcReg ∨ (operand (.mov d r) s r).t = .u ∨ (operand (.mov d r) s r).t = .s →
      Completes (.mov d r) s fun t => WritesOrJumps s t (npcOf (.mov d r) s) d (operand (.mov d r) s r)

/-- 42_alu16.md R105, R106, R108, R116, R124, 47_alu24.md R185 to R187, R195: ADD in its four forms: the wrapped sum,
carry or signed overflow to the Residue register, D = 31 a jump. (Decisions D17, D36; on float types the sum and the
residue are FArith's, entry 11, and D = 31 jumps to its data bits, entry 15; on two types MixedArith's, entry 12; the
constant's type under IMM24_TYPE_FROM = D: entry 27.) -/
def Obligations.AddResult : Prop :=
  (∀ (d r : Reg) (s : State),
    AddCompletes (.add d r) s d (operand (.add d r) s r) (operand (.add d r) s d)) ∧
    (∀ (d : Reg) (n : Imm16) (s : State),
      AddCompletes (.addi d n) s d (imm16Cell n (operand (.addi d n) s d).t) (operand (.addi d n) s d)) ∧
      (∀ (d x r : Reg) (s : State),
        AddCompletes (.add_24 d x r) s d (operand (.add_24 d x r) s r) (operand (.add_24 d x r) s x)) ∧
        ∀ (d x : Reg) (n : Imm24) (s : State),
          AddCompletes (.addi_24 d x n) s d (imm24Cell n (const24Ty (.addi_24 d x n) s d x))
            (operand (.addi_24 d x n) s x)

/-- 42_alu16.md R105, R106, R109, R117, R124, 47_alu24.md R188, R196: SUB in its four forms: first operand minus
second, the flag of SUB_CARRY or signed overflow to the Residue register (decisions D17, D36; entries 5, 11, 12; the
constant's type under IMM24_TYPE_FROM = D: entry 27). -/
def Obligations.SubResult : Prop :=
  (∀ (d r : Reg) (s : State),
    SubCompletes (.sub d r) s d (operand (.sub d r) s r) (operand (.sub d r) s d)) ∧
    (∀ (d : Reg) (n : Imm16) (s : State),
      SubCompletes (.subi d n) s d (imm16Cell n (operand (.subi d n) s d).t) (operand (.subi d n) s d)) ∧
      (∀ (d x r : Reg) (s : State),
        SubCompletes (.sub_24 d x r) s d (operand (.sub_24 d x r) s r) (operand (.sub_24 d x r) s x)) ∧
        ∀ (d x : Reg) (n : Imm24) (s : State),
          SubCompletes (.subi_24 d x n) s d (imm24Cell n (const24Ty (.subi_24 d x n) s d x))
            (operand (.subi_24 d x n) s x)

/-- 42_alu16.md R105, R106, R110, R118, R124, 47_alu24.md R189, R197: MUL in its four forms: the low half of the exact
product to D (blocked for D = 31), the high half to the Residue register (decisions D18, D36; entries 11, 12; the
constant's type under IMM24_TYPE_FROM = D: entry 27). -/
def Obligations.MulResult : Prop :=
  (∀ (d r : Reg) (s : State),
    MulCompletes (.mul d r) s d (operand (.mul d r) s r) (operand (.mul d r) s d)) ∧
    (∀ (d : Reg) (n : Imm16) (s : State),
      MulCompletes (.muli d n) s d (imm16Cell n (operand (.muli d n) s d).t) (operand (.muli d n) s d)) ∧
      (∀ (d x r : Reg) (s : State),
        MulCompletes (.mul_24 d x r) s d (operand (.mul_24 d x r) s r) (operand (.mul_24 d x r) s x)) ∧
        ∀ (d x : Reg) (n : Imm24) (s : State),
          MulCompletes (.muli_24 d x n) s d (imm24Cell n (const24Ty (.muli_24 d x n) s d x))
            (operand (.muli_24 d x n) s x)

/-- 42_alu16.md R105, R106, R111, R119, 47_alu24.md R190, R198: DIV in its four forms, where there is a divider: second
operand divided by the first, quotient to D (blocked for D = 31), remainder to the Residue register (decisions D18,
D20, D36; entries 11, 12, 13; the constant's type under IMM24_TYPE_FROM = D: entry 27). What `divU` and `divS` are is
DivisionLaw. -/
def Obligations.DivResult : Prop :=
  (∀ (d r : Reg) (s : State),
    DivCompletes (.div d r) s d (operand (.div d r) s r) (operand (.div d r) s d)) ∧
    (∀ (d : Reg) (n : Imm16) (s : State),
      DivCompletes (.divi d n) s d (imm16Cell n (operand (.divi d n) s d).t) (operand (.divi d n) s d)) ∧
      (∀ (d x r : Reg) (s : State),
        DivCompletes (.div_24 d x r) s d (operand (.div_24 d x r) s r) (operand (.div_24 d x r) s x)) ∧
        ∀ (d x : Reg) (n : Imm24) (s : State),
          DivCompletes (.divi_24 d x n) s d (imm24Cell n (const24Ty (.divi_24 d x n) s d x))
            (operand (.divi_24 d x n) s x)

/-- 42_alu16.md R111, R124: quotient and remainder: n = q * m + rem with 0 <= rem < m for type U; for type S the
remainder smaller than the divisor in magnitude and of the dividend's sign, so the quotient is truncated toward zero
(decision D20). The zero divisor and -32768 / -1 are left out: nothing is stated of them (entry 13). -/
def Obligations.DivisionLaw : Prop :=
  (∀ n m : Word, m ≠ 0#16 →
    n.toNat = (divU n m).1.toNat * m.toNat + (divU n m).2.toNat ∧ (divU n m).2.toNat < m.toNat) ∧
    ∀ n m : Word, m ≠ 0#16 → ¬(n = 0x8000#16 ∧ m = 0xFFFF#16) →
      n.toInt = (divS n m).1.toInt * m.toInt + (divS n m).2.toInt ∧
        (divS n m).2.toInt.natAbs < m.toInt.natAbs ∧ (0 ≤ n.toInt → 0 ≤ (divS n m).2.toInt) ∧
          (n.toInt ≤ 0 → (divS n m).2.toInt ≤ 0)

/-- 42_alu16.md R112, R120, R124, 47_alu24.md R191, R199: CMP in its four forms writes only the Residue register:
CmpResult, by default -1, 0 or +1 of type S for first operand less than, equal to or greater than second in their type
(decisions D19, D36; entry 19; float types: FArith's residue, entries 11, 16; two types: MixedArith's, entry 12). The
24-bit CMPI under IMM24_TYPE_FROM = D (decision D36) takes its constant's type from the register in the D field, a
field that R191 and U20 call ignored (entries 21 and 27, DEDUCED: the model's reading). -/
def Obligations.CmpResult : Prop :=
  (∀ (d r : Reg) (s : State),
    CmpCompletes (.cmp d r) s (operand (.cmp d r) s r) (operand (.cmp d r) s d)) ∧
    (∀ (d : Reg) (n : Imm16) (s : State),
      CmpCompletes (.cmpi d n) s (imm16Cell n (operand (.cmpi d n) s d).t) (operand (.cmpi d n) s d)) ∧
      (∀ (d x r : Reg) (s : State),
        CmpCompletes (.cmp_24 d x r) s (operand (.cmp_24 d x r) s r) (operand (.cmp_24 d x r) s x)) ∧
        ∀ (d x : Reg) (n : Imm24) (s : State),
          CmpCompletes (.cmpi_24 d x n) s (imm24Cell n (const24Ty (.cmpi_24 d x n) s d x))
            (operand (.cmpi_24 d x n) s x)

/-- 42_alu16.md R113 to R115, 47_alu24.md R186, R192 to R194: AND, OR, XOR of two registers of any types: bitwise on
the data, the second operand's tag kept, the Residue register unchanged unless it is D (decisions D10, D24, D36). -/
def Obligations.LogicOfRegistersResult : Prop :=
  (∀ (d r : Reg) (s : State),
    LogicCompletes (.and d r) s d ((operand (.and d r) s r).v &&& (operand (.and d r) s d).v) (operand (.and d r) s d) ∧
      LogicCompletes (.or d r) s d ((operand (.or d r) s r).v ||| (operand (.or d r) s d).v) (operand (.or d r) s d) ∧
        LogicCompletes (.xor d r) s d ((operand (.xor d r) s r).v ^^^ (operand (.xor d r) s d).v)
          (operand (.xor d r) s d)) ∧
    ∀ (d x r : Reg) (s : State),
      LogicCompletes (.and_24 d x r) s d ((operand (.and_24 d x r) s r).v &&& (operand (.and_24 d x r) s x).v)
          (operand (.and_24 d x r) s x) ∧
        LogicCompletes (.or_24 d x r) s d ((operand (.or_24 d x r) s r).v ||| (operand (.or_24 d x r) s x).v)
            (operand (.or_24 d x r) s x) ∧
          LogicCompletes (.xor_24 d x r) s d ((operand (.xor_24 d x r) s r).v ^^^ (operand (.xor_24 d x r) s x).v)
            (operand (.xor_24 d x r) s x)

/-- 42_alu16.md R121 to R123, 47_alu24.md R186, R200 to R202: ANDI, ORI, XORI: the immediate is the plain pattern N16
whatever the type (decisions D10, D16, D24, D36). -/
def Obligations.LogicWithImmediateResult : Prop :=
  (∀ (d : Reg) (n : Imm16) (s : State),
    LogicCompletes (.andi d n) s d (n16Of16 n &&& (operand (.andi d n) s d).v) (operand (.andi d n) s d) ∧
      LogicCompletes (.ori d n) s d (n16Of16 n ||| (operand (.ori d n) s d).v) (operand (.ori d n) s d) ∧
        LogicCompletes (.xori d n) s d (n16Of16 n ^^^ (operand (.xori d n) s d).v) (operand (.xori d n) s d)) ∧
    ∀ (d x : Reg) (n : Imm24) (s : State),
      LogicCompletes (.andi_24 d x n) s d (n16Of24 n &&& (operand (.andi_24 d x n) s x).v)
          (operand (.andi_24 d x n) s x) ∧
        LogicCompletes (.ori_24 d x n) s d (n16Of24 n ||| (operand (.ori_24 d x n) s x).v)
            (operand (.ori_24 d x n) s x) ∧
          LogicCompletes (.xori_24 d x n) s d (n16Of24 n ^^^ (operand (.xori_24 d x n) s x).v)
            (operand (.xori_24 d x n) s x)

/-! ## Load immediate, shift, extract -/

/-- 43_imm_shift_extract16.md R130 to R133: LDUI and LDSI place N16 (D = 31: an absolute jump); LDFI and LDF2I place a
cell of their type that FloatImm gives (decisions D16, D22; entry 11). -/
def Obligations.LoadImmediateResult : Prop :=
  ∀ (d : Reg) (n : Imm16) (s : State),
    (Completes (.ldui d n) s fun t => WritesOrJumps s t (npcOf (.ldui d n) s) d ⟨n16Of16 n, .u, 0#2⟩) ∧
      (Completes (.ldsi d n) s fun t => WritesOrJumps s t (npcOf (.ldsi d n) s) d ⟨n16Of16 n, .s, 0#2⟩) ∧
        (d ≠ pcReg →
          (Completes (.ldfi d n) s fun t =>
            WritesD s t (npcOf (.ldfi d n) s) d (floatCell .f (Config.floatImm .f (n16Of16 n) (isLong16 n)))) ∧
            Completes (.ldf2i d n) s fun t =>
              WritesD s t (npcOf (.ldf2i d n) s) d (floatCell .f2 (Config.floatImm .f2 (n16Of16 n) (isLong16 n))))

/-- 43_imm_shift_extract16.md R134: SHFTN is the value times 2^N, rounded down, modulo 2^16, for every N: of the
unsigned value for type U, of the signed one for type S; FloatShift for a float type (decisions D22, D33; entry 11). -/
def Obligations.ShftnResult : Prop :=
  ∀ (d : Reg) (n : Imm16) (s : State), d ≠ pcReg →
    Completes (.shftn d n) s fun t =>
      WritesD s t (npcOf (.shftn d n) s) d
        (match (operand (.shftn d n) s d).t with
        | .u => ⟨scaledBy (operand (.shftn d n) s d).v.toNat (n16Of16 n).toInt, .u, 0#2⟩
        | .s => ⟨scaledBy (operand (.shftn d n) s d).v.toInt (n16Of16 n).toInt, .s, 0#2⟩
        | .f => floatCell .f (Config.floatShift (operand (.shftn d n) s d) (n16Of16 n))
        | .f2 => floatCell .f2 (Config.floatShift (operand (.shftn d n) s d) (n16Of16 n)))

/-- 43_imm_shift_extract16.md R135: EXTCTN bit by bit: below the width, the bit of D that many places above the start
(zero past bit 15); from the width up, the field's top bit for type S and zero otherwise; the tag is kept. The start is
N16[3:0], the width N16[9:6] or 16 for zero (decision D34). -/
def Obligations.ExtctnResult : Prop :=
  ∀ (d : Reg) (n : Imm16) (s : State), d ≠ pcReg →
    Completes (.extctn d n) s fun t =>
      ∃ v : Word, WritesD s t (npcOf (.extctn d n) s) d
          ⟨v, (operand (.extctn d n) s d).t, (operand (.extctn d n) s d).e⟩ ∧
        ∀ (start w width : Nat), start = (n16Of16 n).toNat % 16 → w = (n16Of16 n).toNat / 64 % 16 →
          width = (if w = 0 then 16 else w) → ∀ k, k < 16 →
            v.getLsbD k =
              if k < width then (operand (.extctn d n) s d).v.getLsbD (start + k)
              else (operand (.extctn d n) s d).t == .s && (operand (.extctn d n) s d).v.getLsbD (start + width - 1)

/-! ## Typed load and store -/

/-- 44_typed_ldst16.md R140, R142: LDTN: the data from the half word at N, the type code from bits 1:0 and the exponent
bits from bits 3:2 of the half word at N + 2 (TYCODE, decision D9; decision D32; entry 18). -/
def Obligations.LdtnResult : Prop :=
  ∀ (d : Reg) (n : Imm16) (s : State), d ≠ pcReg → Accessible16 s (n16Of16 n) → Accessible16 s (n16Of16 n + 2#16) →
    Completes (.ldtn d n) s fun t =>
      ∃ ty : Ty, bitsOfTy s.params ty = (s.mem.read (n16Of16 n + 2#16)).extractLsb' 0 2 ∧
        WritesD s t (npcOf (.ldtn d n) s) d
          ⟨s.mem.read (n16Of16 n + 1#16) ++ s.mem.read (n16Of16 n), ty,
            (s.mem.read (n16Of16 n + 2#16)).extractLsb' 2 2⟩

/-- 44_typed_ldst16.md R141, R142: STTN stores the data at N and N + 1, the type code and exponent bits in bits 3:0 at
N + 2, zeros above them and at N + 3, and nothing else; D = 31 stores (npc, U, 00) (TYCODE, decision D9; decision D32;
entry 18). -/
def Obligations.SttnResult : Prop :=
  ∀ (d : Reg) (n : Imm16) (s : State), Accessible16 s (n16Of16 n) → Accessible16 s (n16Of16 n + 2#16) →
    Completes (.sttn d n) s fun t =>
      t.mem.read (n16Of16 n) = (operand (.sttn d n) s d).v.extractLsb' 0 8 ∧
        t.mem.read (n16Of16 n + 1#16) = (operand (.sttn d n) s d).v.extractLsb' 8 8 ∧
          t.mem.read (n16Of16 n + 2#16) =
              0#4 ++ (operand (.sttn d n) s d).e ++ bitsOfTy s.params (operand (.sttn d n) s d).t ∧
            t.mem.read (n16Of16 n + 3#16) = 0#8 ∧ t.pc = npcOf (.sttn d n) s ∧
              OnlyMem s t [n16Of16 n, n16Of16 n + 1#16, n16Of16 n + 2#16, n16Of16 n + 3#16]

/-- 44_typed_ldst16.md R141: "STTN followed by LDTN of the same address restores the register exactly, all 20 bits",
here into any register (decision D32; entry 18). -/
def Obligations.TypedStoreThenLoadRestores : Prop :=
  ∀ (d d' : Reg) (n n' : Imm16) (s : State), n16Of16 n' = n16Of16 n → d' ≠ pcReg → Accessible16 s (n16Of16 n) →
    Accessible16 s (n16Of16 n + 2#16) →
      Completes (.sttn d n) s fun t =>
        Completes (.ldtn d' n') t fun u => ∀ npc : Word, u.readReg npc d' = operand (.sttn d n) s d

/-! ## Loads, LEA and stores of the 24- and 32-bit formats -/

/-- 45_ldst24.md R146, R148, R150, R152, 46_ldst32.md R166, R168, R170, R172: the byte loads: zero-extended to type U,
sign-extended to type S, reformatted to a float type (decisions D22, D24; entry 11). -/
def Obligations.ByteLoadsResult : Prop :=
  (∀ (d : Reg) (a : Addr24) (s : State),
    Load8Completes (.ldu8_24 d a) s d (eaOf24 (.ldu8_24 d a) s 1#16 a) (fun b => ⟨b.setWidth 16, .u, 0#2⟩) ∧
      Load8Completes (.lds8_24 d a) s d (eaOf24 (.lds8_24 d a) s 1#16 a) (fun b => ⟨b.signExtend 16, .s, 0#2⟩) ∧
        Load8Completes (.fld8_24 d a) s d (eaOf24 (.fld8_24 d a) s 1#16 a)
            (fun b => floatCell .f (Config.floatFromMem8 .f b)) ∧
          Load8Completes (.f2ld8_24 d a) s d (eaOf24 (.f2ld8_24 d a) s 1#16 a)
            (fun b => floatCell .f2 (Config.floatFromMem8 .f2 b))) ∧
    ∀ (d : Reg) (a : Addr32) (s : State),
      Load8Completes (.ldu8_32 d a) s d (eaOf32 (.ldu8_32 d a) s 1#16 a) (fun b => ⟨b.setWidth 16, .u, 0#2⟩) ∧
        Load8Completes (.lds8_32 d a) s d (eaOf32 (.lds8_32 d a) s 1#16 a) (fun b => ⟨b.signExtend 16, .s, 0#2⟩) ∧
          Load8Completes (.fld8_32 d a) s d (eaOf32 (.fld8_32 d a) s 1#16 a)
              (fun b => floatCell .f (Config.floatFromMem8 .f b)) ∧
            Load8Completes (.f2ld8_32 d a) s d (eaOf32 (.f2ld8_32 d a) s 1#16 a)
              (fun b => floatCell .f2 (Config.floatFromMem8 .f2 b))

/-- 45_ldst24.md R147, R149, 46_ldst32.md R167, R169: the integer half-word loads, little-endian; D = 31 is a table
lookup jump (decision D2). -/
def Obligations.HalfWordLoadsResult : Prop :=
  (∀ (d : Reg) (a : Addr24) (s : State),
    Load16Completes (.ldu16_24 d a) s d (eaOf24 (.ldu16_24 d a) s 2#16 a) .u ∧
      Load16Completes (.lds16_24 d a) s d (eaOf24 (.lds16_24 d a) s 2#16 a) .s) ∧
    ∀ (d : Reg) (a : Addr32) (s : State),
      Load16Completes (.ldu16_32 d a) s d (eaOf32 (.ldu16_32 d a) s 2#16 a) .u ∧
        Load16Completes (.lds16_32 d a) s d (eaOf32 (.lds16_32 d a) s 2#16 a) .s

/-- 45_ldst24.md R151, R153, 46_ldst32.md R171, R173: the half-word loads of the float types (decision D22, entry 11). -/
def Obligations.FloatHalfWordLoadsResult : Prop :=
  (∀ (d : Reg) (a : Addr24) (s : State),
    LoadFloat16Completes (.fld16_24 d a) s d (eaOf24 (.fld16_24 d a) s 2#16 a) .f ∧
      LoadFloat16Completes (.f2ld16_24 d a) s d (eaOf24 (.f2ld16_24 d a) s 2#16 a) .f2) ∧
    ∀ (d : Reg) (a : Addr32) (s : State),
      LoadFloat16Completes (.fld16_32 d a) s d (eaOf32 (.fld16_32 d a) s 2#16 a) .f ∧
        LoadFloat16Completes (.f2ld16_32 d a) s d (eaOf32 (.f2ld16_32 d a) s 2#16 a) .f2

/-- 45_ldst24.md R154, R155, 46_ldst32.md R174, R175: LEA8 and LEA16 write the address, type U; D = 31 is an indexed
jump; no alignment and no access (decisions D10, D37). -/
def Obligations.LeaResult : Prop :=
  (∀ (d : Reg) (a : Addr24) (s : State),
    LeaCompletes (.lea8_24 d a) s d (eaOf24 (.lea8_24 d a) s 1#16 a) ∧
      LeaCompletes (.lea16_24 d a) s d (eaOf24 (.lea16_24 d a) s 2#16 a)) ∧
    ∀ (d : Reg) (a : Addr32) (s : State),
      LeaCompletes (.lea8_32 d a) s d (eaOf32 (.lea8_32 d a) s 1#16 a) ∧
        LeaCompletes (.lea16_32 d a) s d (eaOf32 (.lea16_32 d a) s 2#16 a)

/-- 45_ldst24.md R156 to R158, 46_ldst32.md R176, R177: ST8 and ST16 store at EA the low byte or the half word of an
integer register (FloatToMem of a float-typed one) and change no other byte; D = 31 stores `npc` (decisions D2, D22;
entry 11). -/
def Obligations.StoresResult : Prop :=
  (∀ (d : Reg) (a : Addr24) (s : State),
    Store8Completes (.st8_24 d a) s d (eaOf24 (.st8_24 d a) s 1#16 a) ∧
      Store16Completes (.st16_24 d a) s d (eaOf24 (.st16_24 d a) s 2#16 a)) ∧
    ∀ (d : Reg) (a : Addr32) (s : State),
      Store8Completes (.st8_32 d a) s d (eaOf32 (.st8_32 d a) s 1#16 a) ∧
        Store16Completes (.st16_32 d a) s d (eaOf32 (.st16_32 d a) s 2#16 a)

/-! ## Other opcode maps -/

/-- 00_scope.md R4, 30_encoding.md R61 to R63, R72 to R74: other opcode maps move only opcode numbers: an instruction
under the maps `m` has, at the places of the pictures, `m`'s numbers for the default ones and every other bit as under
the default maps, and it decodes to the same (parameters OPMAP16, OPMAP24, OPMAP32; decisions D11 to D13, entry 17). -/
def Obligations.OpcodeMapsMoveOnlyOpcodes : Prop :=
  ∀ (m : OpMaps) (w : BitVec 32),
    decodeWindowBy m (m.ofDefault w) = decodeWindow w ∧ formatOf (m.ofDefault w) = formatOf w ∧
      (formatOf w = .b16 →
        fieldOp5 (m.ofDefault w) = renumber m.op16 (fieldOp5 w) ∧
          ∀ k, k < 1 ∨ 5 < k → (m.ofDefault w).getLsbD k = w.getLsbD k) ∧
        (formatOf w = .b24 →
          fieldOp6 (m.ofDefault w) = renumber m.op24 (fieldOp6 w) ∧
            ∀ k, k < 2 ∨ 5 < k → k < 16 ∨ 17 < k → (m.ofDefault w).getLsbD k = w.getLsbD k) ∧
          (formatOf w = .b32 →
            fieldOp9 (m.ofDefault w) = renumber m.op32 (fieldOp9 w) ∧
              ∀ k, k < 2 ∨ 5 < k → k < 16 ∨ 17 < k → k < 24 ∨ 26 < k → (m.ofDefault w).getLsbD k = w.getLsbD k)

/-! ## Exponent bits of integers -/

/-- 10_state.md R14, of arithmetic and compares: the exponent bits of an integer operand are not read, and every result
of type U or S has `e` = 00, compare results and, where mixed types are implemented, results of MixedArith among them.
Left out: two operands of one float type, where R18 says "as `FArith` returns". (Decision D10; the tags of MixedArith
and of a CmpResult other than the default are free but for this, entries 12, 19.) -/
def Obligations.IntegerExponentBits : Prop :=
  (∀ (p : Params) (op : ArithOp) (a b : Cell) (r : Cell × Option Cell),
    (a.t = b.t → a.t = .u ∨ a.t = .s) → arithResult p op a b = .ok r →
      (r.1.t = .u ∨ r.1.t = .s → r.1.e = 0#2) ∧ ∀ c, r.2 = some c → c.t = .u ∨ c.t = .s → c.e = 0#2) ∧
    (∀ (p : Params) (op : ArithOp) (a b : Cell) (e : BitVec 2), a.t = .u ∨ a.t = .s →
      arithResult p op { a with e := e } b = arithResult p op a b) ∧
      ∀ (p : Params) (op : ArithOp) (a b : Cell) (e : BitVec 2), b.t = .u ∨ b.t = .s →
        arithResult p op a { b with e := e } = arithResult p op a b
end

