-- ==== Sys2Proof/Laws/Decode.lean ====
section
/-! SUPPORT. What each field of the decoder reads from each layout of the encoder (30_encoding.md R61 to R63). -/

namespace Sys2Proof

/-! ## The 16-bit layout -/

@[simp] theorem formatOf_layout16 (op5 : BitVec 5) (d top : Reg) (ext : Word) :
    formatOf (layout16 op5 d top ext) = .b16 := by
  unfold formatOf layout16; simp only [BitVec.getLsbD_append]; simp

@[simp] theorem fieldOp5_layout16 (op5 : BitVec 5) (d top : Reg) (ext : Word) :
    fieldOp5 (layout16 op5 d top ext) = op5 := by
  unfold fieldOp5 layout16; simp only [BitVec.extractLsb'_append_eq_ite]; simp

@[simp] theorem fieldD_layout16 (op5 : BitVec 5) (d top : Reg) (ext : Word) :
    fieldD (layout16 op5 d top ext) = d := by
  unfold fieldD layout16; simp only [BitVec.extractLsb'_append_eq_ite]; simp

@[simp] theorem fieldS_layout16 (op5 : BitVec 5) (d top : Reg) (ext : Word) :
    fieldS (layout16 op5 d top ext) = top := by
  unfold fieldS layout16; simp only [BitVec.extractLsb'_append_eq_ite]; simp

@[simp] theorem ext_layout16 (op5 : BitVec 5) (d top : Reg) (ext : Word) :
    (layout16 op5 d top ext).extractLsb' 16 16 = ext := by
  unfold layout16; simp only [BitVec.extractLsb'_append_eq_ite]; simp

/-- The two halves of `op6` put together. -/
theorem extract_join6 (o : BitVec 6) : o.extractLsb' 4 2 ++ o.extractLsb' 0 4 = o := by
  ext i hi
  simp only [← BitVec.getLsbD_eq_getElem, BitVec.getLsbD_append, BitVec.getLsbD_extractLsb']
  split
  · next h => simp [h]
  · next h =>
    rw [show 4 + (i - 4) = i by omega, show i - 4 < 2 by omega |> decide_eq_true]; simp

/-! ## The 24-bit layout -/

section
variable (op6 : BitVec 6) (d s : Reg) (ie : BitVec 1) (top : Reg) (ext : Byte)

@[simp] theorem formatOf_layout24 : formatOf (layout24 op6 d s ie top ext) = .b24 := by
  unfold formatOf layout24; simp only [BitVec.getLsbD_append]; simp

@[simp] theorem fieldOp6_layout24 : fieldOp6 (layout24 op6 d s ie top ext) = op6 := by
  unfold fieldOp6 layout24; simp only [BitVec.extractLsb'_append_eq_ite]; simp [extract_join6]

@[simp] theorem fieldD_layout24 : fieldD (layout24 op6 d s ie top ext) = d := by
  unfold fieldD layout24; simp only [BitVec.extractLsb'_append_eq_ite]; simp

@[simp] theorem fieldS_layout24 : fieldS (layout24 op6 d s ie top ext) = s := by
  unfold fieldS layout24; simp only [BitVec.extractLsb'_append_eq_ite]; simp

@[simp] theorem fieldR_layout24 : fieldR (layout24 op6 d s ie top ext) = top := by
  unfold fieldR layout24; simp only [BitVec.extractLsb'_append_eq_ite]; simp

@[simp] theorem fieldIe_layout24 : fieldIe (layout24 op6 d s ie top ext) = ie.getLsbD 0 := by
  unfold fieldIe layout24; simp only [BitVec.getLsbD_append]; simp

@[simp] theorem extLow_layout24 : (layout24 op6 d s ie top ext).extractLsb' 19 4 = top.extractLsb' 0 4 := by
  unfold layout24; simp only [BitVec.extractLsb'_append_eq_ite]; simp

@[simp] theorem extHigh_layout24 : (layout24 op6 d s ie top ext).extractLsb' 24 8 = ext := by
  unfold layout24; simp only [BitVec.extractLsb'_append_eq_ite]; simp

@[simp] theorem top4_layout24 : (layout24 op6 d s ie top ext).getLsbD 23 = top.getLsbD 4 := by
  unfold layout24; simp only [BitVec.getLsbD_append]; simp

@[simp] theorem top32_layout24 : (layout24 op6 d s ie top ext).extractLsb' 21 2 = top.extractLsb' 2 2 := by
  unfold layout24; simp only [BitVec.extractLsb'_append_eq_ite]; simp
end

/-! ## The 32-bit layout -/

section
variable (op6 : BitVec 6) (opC : BitVec 3) (d s r : Reg) (ie : BitVec 1) (top : Reg)

@[simp] theorem formatOf_layout32 : formatOf (layout32 op6 opC d s r ie top) = .b32 := by
  unfold formatOf layout32; simp only [BitVec.getLsbD_append]; simp

@[simp] theorem fieldOp6_layout32 : fieldOp6 (layout32 op6 opC d s r ie top) = op6 := by
  unfold fieldOp6 layout32; simp only [BitVec.extractLsb'_append_eq_ite]; simp [extract_join6]

@[simp] theorem fieldD_layout32 : fieldD (layout32 op6 opC d s r ie top) = d := by
  unfold fieldD layout32; simp only [BitVec.extractLsb'_append_eq_ite]; simp

@[simp] theorem fieldS_layout32 : fieldS (layout32 op6 opC d s r ie top) = s := by
  unfold fieldS layout32; simp only [BitVec.extractLsb'_append_eq_ite]; simp

@[simp] theorem fieldR_layout32 : fieldR (layout32 op6 opC d s r ie top) = r := by
  unfold fieldR layout32; simp only [BitVec.extractLsb'_append_eq_ite]; simp

@[simp] theorem fieldT_layout32 : fieldT (layout32 op6 opC d s r ie top) = top := by
  unfold fieldT layout32; simp only [BitVec.extractLsb'_append_eq_ite]; simp

@[simp] theorem fieldOpC_layout32 : fieldOpC (layout32 op6 opC d s r ie top) = opC := by
  unfold fieldOpC layout32; simp only [BitVec.extractLsb'_append_eq_ite]; simp

@[simp] theorem fieldIe_layout32 : fieldIe (layout32 op6 opC d s r ie top) = ie.getLsbD 0 := by
  unfold fieldIe layout32; simp only [BitVec.getLsbD_append]; simp

@[simp] theorem opC2_layout32 : (layout32 op6 opC d s r ie top).getLsbD 26 = opC.getLsbD 2 := by
  unfold layout32; simp only [BitVec.getLsbD_append]; simp

@[simp] theorem y1_layout32 : (layout32 op6 opC d s r ie top).extractLsb' 24 2 = opC.extractLsb' 0 2 := by
  unfold layout32; simp only [BitVec.extractLsb'_append_eq_ite]; simp

@[simp] theorem top4_layout32 : (layout32 op6 opC d s r ie top).getLsbD 31 = top.getLsbD 4 := by
  unfold layout32; simp only [BitVec.getLsbD_append]; simp

@[simp] theorem top32_layout32 : (layout32 op6 opC d s r ie top).extractLsb' 29 2 = top.extractLsb' 2 2 := by
  unfold layout32; simp only [BitVec.extractLsb'_append_eq_ite]; simp

@[simp] theorem top30_layout32 : (layout32 op6 opC d s r ie top).extractLsb' 27 4 = top.extractLsb' 0 4 := by
  unfold layout32; simp only [BitVec.extractLsb'_append_eq_ite]; simp
end

/-! ## Immediates -/

/-- The top bit of a short code, and of the code of a long immediate. -/
theorem bit4_append1 (n : BitVec 4) : (1#1 ++ n).getLsbD 4 = true := by
  simp only [BitVec.getLsbD_append]; simp

theorem bit4_append0 (n : BitVec 4) : (0#1 ++ n).getLsbD 4 = false := by
  simp only [BitVec.getLsbD_append]; simp

theorem extract22_append (b : BitVec 1) (n : BitVec 4) : (b ++ n).extractLsb' 2 2 = n.extractLsb' 2 2 := by
  simp only [BitVec.extractLsb'_append_eq_ite]; simp

theorem extract04_append (b : BitVec 1) (n : BitVec 4) : (b ++ n).extractLsb' 0 4 = n := by
  simp only [BitVec.extractLsb'_append_eq_ite]; simp

/-- The two parts of a 12-bit immediate put together. -/
theorem extract_join12 (n : BitVec 12) : n.extractLsb' 4 8 ++ n.extractLsb' 0 4 = n := by
  ext i hi
  simp only [← BitVec.getLsbD_eq_getElem, BitVec.getLsbD_append, BitVec.getLsbD_extractLsb']
  split
  · next h => simp [h]
  · next h => rw [show 4 + (i - 4) = i by omega, show i - 4 < 8 by omega |> decide_eq_true]; simp

/-- The decoder reads back an encoded 16-bit immediate (30_encoding.md R67). -/
theorem imm16Of_encodeN16 (op5 : BitVec 5) (d : Reg) {n : Imm16} (h : n.wf = true) :
    imm16Of (encodeN16 op5 d n) = n := by
  cases n with
  | short n => simp only [Imm16.wf, bne_iff_ne, ne_eq] at h; simp [encodeN16, imm16Of, h]
  | long n => simp [encodeN16, imm16Of]

/-- The decoder reads back an encoded 24-bit immediate (30_encoding.md R69). -/
theorem imm24Of_encodeN24 (op6 : BitVec 6) (d s : Reg) {n : Imm24} (h : n.wf = true) :
    imm24Of (encodeN24 op6 d s n) = .ok n := by
  cases n with
  | short n =>
    simp only [Imm24.wf, shortCodeWf, bne_iff_ne, ne_eq] at h
    simp [-BitVec.getLsbD_eq_getElem, encodeN24, imm24Of, h, bit4_append1, extract22_append, extract04_append]
  | long n =>
    simp [-BitVec.getLsbD_eq_getElem, encodeN24, imm24Of, bit4_append0, extract04_append, extract_join12]

/-! ## The window of the bytes -/

/-- The window of four bytes is what they were cut from, whatever bytes follow. -/
theorem windowOf_windowBytes (w : BitVec 32) (rest : List Byte): windowOf (windowBytes w ++ rest) = w := by
  simp only [windowOf, windowBytes, List.cons_append, List.nil_append, List.getD_cons_succ, List.getD_cons_zero]
  ext i hi
  simp only [BitVec.getElem_append, BitVec.getElem_extractLsb']
  simp only [← BitVec.getLsbD_eq_getElem]
  split
  · simp
  · split
    · congr 1; omega
    · split <;> (congr 1; omega)

end Sys2Proof
end

