-- ==== Sys2Proof/Laws/State.lean ====
section
/-! SUPPORT. What each update of the state leaves in each field, all true by definition. -/

namespace Sys2Proof.Machine

/-! ## setPc -/

@[simp] theorem State.setPc_regs (s : State) (v : Word) : (s.setPc v).regs = s.regs := rfl
@[simp] theorem State.setPc_pc (s : State) (v : Word) : (s.setPc v).pc = v := rfl
@[simp] theorem State.setPc_halted (s : State) (v : Word) : (s.setPc v).halted = s.halted := rfl
@[simp] theorem State.setPc_iregs (s : State) (v : Word) : (s.setPc v).iregs = s.iregs := rfl
@[simp] theorem State.setPc_mem (s : State) (v : Word) : (s.setPc v).mem = s.mem := rfl
@[simp] theorem State.setPc_outputs (s : State) (v : Word) : (s.setPc v).outputs = s.outputs := rfl
@[simp] theorem State.setPc_inputDraws (s : State) (v : Word) : (s.setPc v).inputDraws = s.inputDraws := rfl
@[simp] theorem State.setPc_haltCause (s : State) (v : Word) : (s.setPc v).haltCause = s.haltCause := rfl
@[simp] theorem State.setPc_fetchImage (s : State) (v : Word) : (s.setPc v).fetchImage = s.fetchImage := rfl
@[simp] theorem State.setPc_params (s : State) (v : Word) : (s.setPc v).params = s.params := rfl

/-! ## writeReg -/

@[simp] theorem State.writeReg_regs (s : State) (r : Reg) (c : Cell) :
    (s.writeReg r c).regs = setCell s.regs r c := rfl
@[simp] theorem State.writeReg_pc (s : State) (r : Reg) (c : Cell) : (s.writeReg r c).pc = s.pc := rfl
@[simp] theorem State.writeReg_halted (s : State) (r : Reg) (c : Cell) : (s.writeReg r c).halted = s.halted := rfl
@[simp] theorem State.writeReg_iregs (s : State) (r : Reg) (c : Cell) : (s.writeReg r c).iregs = s.iregs := rfl
@[simp] theorem State.writeReg_mem (s : State) (r : Reg) (c : Cell) : (s.writeReg r c).mem = s.mem := rfl
@[simp] theorem State.writeReg_outputs (s : State) (r : Reg) (c : Cell) : (s.writeReg r c).outputs = s.outputs := rfl
@[simp] theorem State.writeReg_inputDraws (s : State) (r : Reg) (c : Cell) :
    (s.writeReg r c).inputDraws = s.inputDraws := rfl
@[simp] theorem State.writeReg_haltCause (s : State) (r : Reg) (c : Cell) :
    (s.writeReg r c).haltCause = s.haltCause := rfl
@[simp] theorem State.writeReg_fetchImage (s : State) (r : Reg) (c : Cell) :
    (s.writeReg r c).fetchImage = s.fetchImage := rfl
@[simp] theorem State.writeReg_params (s : State) (r : Reg) (c : Cell) : (s.writeReg r c).params = s.params := rfl

/-! ## haltWith -/

@[simp] theorem State.haltWith_regs (s : State) (c : HaltCause) : (s.haltWith c).regs = s.regs := rfl
@[simp] theorem State.haltWith_pc (s : State) (c : HaltCause) : (s.haltWith c).pc = s.pc := rfl
@[simp] theorem State.haltWith_halted (s : State) (c : HaltCause) : (s.haltWith c).halted = true := rfl
@[simp] theorem State.haltWith_iregs (s : State) (c : HaltCause) : (s.haltWith c).iregs = s.iregs := rfl
@[simp] theorem State.haltWith_mem (s : State) (c : HaltCause) : (s.haltWith c).mem = s.mem := rfl
@[simp] theorem State.haltWith_outputs (s : State) (c : HaltCause) : (s.haltWith c).outputs = s.outputs := rfl
@[simp] theorem State.haltWith_inputDraws (s : State) (c : HaltCause) :
    (s.haltWith c).inputDraws = s.inputDraws := rfl
@[simp] theorem State.haltWith_haltCause (s : State) (c : HaltCause) : (s.haltWith c).haltCause = some c := rfl
@[simp] theorem State.haltWith_fetchImage (s : State) (c : HaltCause) :
    (s.haltWith c).fetchImage = s.fetchImage := rfl
@[simp] theorem State.haltWith_params (s : State) (c : HaltCause) : (s.haltWith c).params = s.params := rfl

/-! ## portIn -/

@[simp] theorem State.portIn_regs (s : State) (k : Fin 16) : (s.portIn k).2.regs = s.regs := rfl
@[simp] theorem State.portIn_pc (s : State) (k : Fin 16) : (s.portIn k).2.pc = s.pc := rfl
@[simp] theorem State.portIn_halted (s : State) (k : Fin 16) : (s.portIn k).2.halted = s.halted := rfl
@[simp] theorem State.portIn_iregs (s : State) (k : Fin 16) : (s.portIn k).2.iregs = s.iregs := rfl
@[simp] theorem State.portIn_mem (s : State) (k : Fin 16) : (s.portIn k).2.mem = s.mem := rfl
@[simp] theorem State.portIn_outputs (s : State) (k : Fin 16) : (s.portIn k).2.outputs = s.outputs := rfl
@[simp] theorem State.portIn_inputDraws (s : State) (k : Fin 16) : (s.portIn k).2.inputDraws = s.inputDraws + 1 := rfl
@[simp] theorem State.portIn_haltCause (s : State) (k : Fin 16) : (s.portIn k).2.haltCause = s.haltCause := rfl
@[simp] theorem State.portIn_fetchImage (s : State) (k : Fin 16) : (s.portIn k).2.fetchImage = s.fetchImage := rfl
@[simp] theorem State.portIn_params (s : State) (k : Fin 16) : (s.portIn k).2.params = s.params := rfl

/-! ## portOut -/

@[simp] theorem State.portOut_regs (s : State) (k : Fin 16) (v : Word) : (s.portOut k v).regs = s.regs := rfl
@[simp] theorem State.portOut_pc (s : State) (k : Fin 16) (v : Word) : (s.portOut k v).pc = s.pc := rfl
@[simp] theorem State.portOut_halted (s : State) (k : Fin 16) (v : Word) : (s.portOut k v).halted = s.halted := rfl
@[simp] theorem State.portOut_iregs (s : State) (k : Fin 16) (v : Word) : (s.portOut k v).iregs = s.iregs := rfl
@[simp] theorem State.portOut_mem (s : State) (k : Fin 16) (v : Word) : (s.portOut k v).mem = s.mem := rfl
@[simp] theorem State.portOut_outputs (s : State) (k : Fin 16) (v : Word) :
    (s.portOut k v).outputs = s.outputs ++ [⟨k, v⟩] := rfl
@[simp] theorem State.portOut_inputDraws (s : State) (k : Fin 16) (v : Word) :
    (s.portOut k v).inputDraws = s.inputDraws := rfl
@[simp] theorem State.portOut_haltCause (s : State) (k : Fin 16) (v : Word) :
    (s.portOut k v).haltCause = s.haltCause := rfl
@[simp] theorem State.portOut_fetchImage (s : State) (k : Fin 16) (v : Word) :
    (s.portOut k v).fetchImage = s.fetchImage := rfl
@[simp] theorem State.portOut_params (s : State) (k : Fin 16) (v : Word) : (s.portOut k v).params = s.params := rfl

/-! ## writeIreg -/

@[simp] theorem State.writeIreg_regs (s : State) (k : Fin 15) (v : Word) : (s.writeIreg k v).regs = s.regs := rfl
@[simp] theorem State.writeIreg_pc (s : State) (k : Fin 15) (v : Word) : (s.writeIreg k v).pc = s.pc := rfl
@[simp] theorem State.writeIreg_halted (s : State) (k : Fin 15) (v : Word) :
    (s.writeIreg k v).halted = s.halted := rfl
@[simp] theorem State.writeIreg_iregs (s : State) (k : Fin 15) (v : Word) :
    (s.writeIreg k v).iregs =
      s.iregs.set (Params.iregPlace s.params k) (BitVec.ofNat 16 (v.toNat % 2 ^ s.params.iregWidth)) := rfl
@[simp] theorem State.writeIreg_mem (s : State) (k : Fin 15) (v : Word) : (s.writeIreg k v).mem = s.mem := rfl
@[simp] theorem State.writeIreg_outputs (s : State) (k : Fin 15) (v : Word) :
    (s.writeIreg k v).outputs = s.outputs := rfl
@[simp] theorem State.writeIreg_inputDraws (s : State) (k : Fin 15) (v : Word) :
    (s.writeIreg k v).inputDraws = s.inputDraws := rfl
@[simp] theorem State.writeIreg_haltCause (s : State) (k : Fin 15) (v : Word) :
    (s.writeIreg k v).haltCause = s.haltCause := rfl
@[simp] theorem State.writeIreg_fetchImage (s : State) (k : Fin 15) (v : Word) :
    (s.writeIreg k v).fetchImage = s.fetchImage := rfl
@[simp] theorem State.writeIreg_params (s : State) (k : Fin 15) (v : Word) :
    (s.writeIreg k v).params = s.params := rfl

/-! ## resetWith -/

@[simp] theorem State.resetWith_regs (p : Params) : (State.resetWith p).regs = Vector.replicate 31 resetCell := rfl
@[simp] theorem State.resetWith_pc (p : Params) : (State.resetWith p).pc = p.resetPc := rfl
@[simp] theorem State.resetWith_halted (p : Params) : (State.resetWith p).halted = false := rfl
@[simp] theorem State.resetWith_iregs (p : Params) : (State.resetWith p).iregs = Vector.replicate 15 0#16 := rfl
@[simp] theorem State.resetWith_mem (p : Params) : (State.resetWith p).mem = [] := rfl
@[simp] theorem State.resetWith_outputs (p : Params) : (State.resetWith p).outputs = [] := rfl
@[simp] theorem State.resetWith_inputDraws (p : Params) : (State.resetWith p).inputDraws = 0 := rfl
@[simp] theorem State.resetWith_haltCause (p : Params) : (State.resetWith p).haltCause = none := rfl
@[simp] theorem State.resetWith_fetchImage (p : Params) : (State.resetWith p).fetchImage = [] := rfl
@[simp] theorem State.resetWith_params (p : Params) : (State.resetWith p).params = p := rfl

/-- Reset is that of the default parameters. -/
@[simp] theorem State.reset_eq : State.reset = State.resetWith Config.defaultParams := rfl

/-! ## resetEvent -/

@[simp] theorem State.resetEvent_regs (s : State) : (s.resetEvent).regs = State.reset.regs := rfl
@[simp] theorem State.resetEvent_pc (s : State) : (s.resetEvent).pc = s.params.resetPc := rfl
@[simp] theorem State.resetEvent_halted (s : State) : (s.resetEvent).halted = false := rfl
@[simp] theorem State.resetEvent_iregs (s : State) : (s.resetEvent).iregs = State.reset.iregs := rfl
@[simp] theorem State.resetEvent_mem (s : State) : (s.resetEvent).mem = s.mem := rfl
@[simp] theorem State.resetEvent_outputs (s : State) : (s.resetEvent).outputs = [] := rfl
@[simp] theorem State.resetEvent_inputDraws (s : State) : (s.resetEvent).inputDraws = s.inputDraws := rfl
@[simp] theorem State.resetEvent_haltCause (s : State) : (s.resetEvent).haltCause = none := rfl
@[simp] theorem State.resetEvent_fetchImage (s : State) : (s.resetEvent).fetchImage = s.fetchImage := rfl
@[simp] theorem State.resetEvent_params (s : State) : (s.resetEvent).params = s.params := rfl

/-! ## Reading a register after an update that writes none -/

@[simp] theorem State.readReg_setPc (s : State) (v npc : Word) (r : Reg) :
    (s.setPc v).readReg npc r = s.readReg npc r := rfl
@[simp] theorem State.readReg_haltWith (s : State) (c : HaltCause) (npc : Word) (r : Reg) :
    (s.haltWith c).readReg npc r = s.readReg npc r := rfl
@[simp] theorem State.readReg_portIn (s : State) (k : Fin 16) (npc : Word) (r : Reg) :
    (s.portIn k).2.readReg npc r = s.readReg npc r := rfl
@[simp] theorem State.readReg_portOut (s : State) (k : Fin 16) (v npc : Word) (r : Reg) :
    (s.portOut k v).readReg npc r = s.readReg npc r := rfl
@[simp] theorem State.readReg_writeIreg (s : State) (k : Fin 15) (v npc : Word) (r : Reg) :
    (s.writeIreg k v).readReg npc r = s.readReg npc r := rfl

end Sys2Proof.Machine
end

