-- ==== Sys2Proof/Laws/Memory.lean ====
section
/-! SUPPORT. The laws of the byte list: what a lookup finds after an insertion, and that every operation keeps the
canonical form. -/

namespace Sys2Proof.Machine

theorem Memory.find_insert (m : Memory) (k j : Nat) (v : Byte) :
    (m.insert k v).find j = if j = k then some v else m.find j := by
  induction m with
  | nil => simp [Memory.insert, Memory.find]
  | cons p m ih =>
    obtain ⟨a, b⟩ := p
    simp only [Memory.insert]
    split
    · simp [Memory.find]
    · split
      · next h => subst h; simp only [Memory.find]; split <;> simp_all
      · simp only [Memory.find, ih]
        split
        · split
          · omega
          · rfl
        · rfl

theorem Memory.read_insert (m : Memory) (k : Nat) (b : Word) (v : Byte) :
    Memory.read (m.insert k v) b = if b.toNat = k then v else m.read b := by
  simp only [Memory.read, Memory.find_insert]
  split <;> rfl

/-! ## The canonical form -/

theorem Memory.wfFrom_mono {lo lo' : Nat} {m : Memory} (h : lo' ≤ lo) (hm : Memory.wfFrom lo m = true) :
    Memory.wfFrom lo' m = true := by
  cases m with
  | nil => rfl
  | cons p m =>
    obtain ⟨a, b⟩ := p
    simp only [Memory.wfFrom, Bool.and_eq_true, decide_eq_true_eq] at hm ⊢
    exact ⟨⟨by omega, hm.1.2⟩, hm.2⟩

theorem Memory.wfFrom_insert {lo k : Nat} {m : Memory} (v : Byte) (hlo : lo ≤ k) (hk : k < 2 ^ 16)
    (hm : Memory.wfFrom lo m = true) : Memory.wfFrom lo (m.insert k v) = true := by
  induction m generalizing lo with
  | nil => simp [Memory.insert, Memory.wfFrom, hlo]; omega
  | cons p m ih =>
    obtain ⟨a, b⟩ := p
    simp only [Memory.wfFrom, Bool.and_eq_true, decide_eq_true_eq] at hm
    simp only [Memory.insert]
    split
    · simp only [Memory.wfFrom, Bool.and_eq_true, decide_eq_true_eq]
      exact ⟨⟨hlo, hk⟩, ⟨by omega, hm.1.2⟩, hm.2⟩
    · split
      · next h =>
        subst h
        simp only [Memory.wfFrom, Bool.and_eq_true, decide_eq_true_eq]
        exact ⟨⟨hlo, hk⟩, hm.2⟩
      · simp only [Memory.wfFrom, Bool.and_eq_true, decide_eq_true_eq]
        exact ⟨hm.1, ih (by omega) hm.2⟩

/-- Storing a byte keeps the canonical form. -/
theorem Memory.wf_write {m : Memory} (a : Word) (b : Byte) (hm : m.wf = true) : (m.write a b).wf = true :=
  Memory.wfFrom_insert b (Nat.zero_le _) a.isLt hm

/-- Storing two bytes keeps the canonical form. -/
theorem Memory.wf_write16 {m : Memory} (a v : Word) (hm : m.wf = true) : (m.write16 a v).wf = true :=
  Memory.wf_write _ _ (Memory.wf_write _ _ hm)

/-- Below its first address a list finds nothing. -/
theorem Memory.find_below {lo k : Nat} {m : Memory} (hm : Memory.wfFrom lo m = true) (h : k < lo) : m.find k = none := by
  induction m generalizing lo with
  | nil => rfl
  | cons p m ih =>
    obtain ⟨a, b⟩ := p
    simp only [Memory.wfFrom, Bool.and_eq_true, decide_eq_true_eq] at hm
    simp only [Memory.find, show k ≠ a by omega, if_false]
    exact ih hm.2 (by omega)

/-- Two lists in canonical form that find the same bytes are the same list. -/
theorem Memory.ext_of_wf {lo : Nat} {m m' : Memory} (hm : Memory.wfFrom lo m = true)
    (hm' : Memory.wfFrom lo m' = true) (h : ∀ k, m.find k = m'.find k) : m = m' := by
  induction m generalizing lo m' with
  | nil =>
    cases m' with
    | nil => rfl
    | cons p m' => have := h p.1; simp [Memory.find] at this
  | cons p m ih =>
    obtain ⟨a, b⟩ := p
    cases m' with
    | nil => have := h a; simp [Memory.find] at this
    | cons p' m' =>
      obtain ⟨a', b'⟩ := p'
      simp only [Memory.wfFrom, Bool.and_eq_true, decide_eq_true_eq] at hm hm'
      have ha : a = a' := by
        rcases Nat.lt_trichotomy a a' with hlt | heq | hlt
        · have := h a
          simp [Memory.find, show a ≠ a' by omega, Memory.find_below hm'.2 (show a < a' + 1 by omega)] at this
        · exact heq
        · have := h a'
          simp [Memory.find, show a' ≠ a by omega, Memory.find_below hm.2 (show a' < a + 1 by omega)] at this
      subst ha
      have hb : b = b' := by have := h a; simpa [Memory.find] using this
      subst hb
      rw [ih hm.2 hm'.2 fun k => ?_]
      have hk := h k
      simp only [Memory.find] at hk
      split at hk
      · next e => subst e; rw [Memory.find_below hm.2 (by omega), Memory.find_below hm'.2 (by omega)]
      · exact hk

/-- Launching bytes keeps the canonical form of both lists. -/
theorem State.launchBytes_wf (s : State) (a : Word) (bs : List Byte) (hm : s.mem.wf = true)
    (hf : s.fetchImage.wf = true) :
    (s.launchBytes a bs).mem.wf = true ∧ (s.launchBytes a bs).fetchImage.wf = true := by
  induction bs generalizing s a with
  | nil => exact ⟨hm, hf⟩
  | cons b bs ih => exact ih _ _ (Memory.wf_write a b hm) (Memory.wf_write a b hf)

/-- The memory of the machine after reset is in canonical form. -/
theorem State.reset_mem_wf : State.reset.mem.wf = true := rfl

end Sys2Proof.Machine
end

