-- ==== Sys2Proof/Laws/Registers.lean ====
section
/-! SUPPORT. Reading a register after a write, and what each form of a write to D leaves. -/

namespace Sys2Proof.Machine

theorem toNat_lt_of_ne_pcReg {r : Reg} (h : r ≠ pcReg) : r.toNat < 31 := by
  have h1 : r.toNat ≠ 31 := fun e => h (BitVec.eq_of_toNat_eq e)
  omega

theorem pcReg_not_lt : ¬pcReg.toNat < 31 := by decide

/-- Register 31 reads as the next-instruction address, type U (10_state.md R19). -/
@[simp] theorem State.readReg_pcReg (s : State) (npc : Word) : s.readReg npc pcReg = ⟨npc, .u, 0#2⟩ := by
  simp [State.readReg, pcReg]

/-- A register other than 31 reads the same whatever the next-instruction address is. -/
theorem State.readReg_npc (s : State) (npc npc' : Word) {r : Reg} (h : r ≠ pcReg) :
    s.readReg npc r = s.readReg npc' r := by
  simp [State.readReg, toNat_lt_of_ne_pcReg h]

/-- Number 31 has no cell to write. -/
@[simp] theorem State.writeReg_pcReg (s : State) (c : Cell) : s.writeReg pcReg c = s := by
  simp [State.writeReg, setCell, pcReg]

theorem State.readReg_writeReg_self (s : State) (npc : Word) (c : Cell) {r : Reg} (h : r ≠ pcReg) :
    (s.writeReg r c).readReg npc r = c := by
  simp [State.readReg, setCell, toNat_lt_of_ne_pcReg h]

theorem State.readReg_writeReg_ne (s : State) (npc : Word) (c : Cell) {r d : Reg} (h : r ≠ d) :
    (s.writeReg d c).readReg npc r = s.readReg npc r := by
  have hn : d.toNat ≠ r.toNat := fun e => h (BitVec.eq_of_toNat_eq e).symm
  simp only [State.readReg, State.writeReg_regs, setCell]
  split
  · split
    · simp [Vector.getElem_set_ne, hn]
    · rfl
  · rfl

/-! ## The forms of a write to D -/

theorem State.writeOrJump_pc (s : State) (c : Cell) (npc : Word) :
    s.writeOrJump pcReg c npc = s.setPc c.v := by
  simp [State.writeOrJump]

theorem State.writeOrJump_ne (s : State) (c : Cell) (npc : Word) {d : Reg} (h : d ≠ pcReg) :
    s.writeOrJump d c npc = (s.writeReg d c).setPc npc := by
  simp [State.writeOrJump, h]

/-- A blocked write to the PC and a write to the cell it lacks come to the same. -/
theorem State.writeOrBlock_eq (s : State) (d : Reg) (c : Cell) (npc : Word) :
    s.writeOrBlock d c npc = (s.writeReg d c).setPc npc := by
  unfold State.writeOrBlock
  split
  · next h => simp [h]
  · rfl

/-- A write to D that may be a jump: one register write and one value of the pc, D = 31 or not. -/
theorem State.writeOrJump_eq (s : State) (d : Reg) (c : Cell) (npc : Word) :
    s.writeOrJump d c npc = (s.writeReg d c).setPc (if d = pcReg then c.v else npc) := by
  unfold State.writeOrJump
  split
  · next h => simp [h]
  · next h => rfl

@[simp] theorem State.writeRes_some (s : State) (c : Cell) : s.writeRes (some c) = s.writeReg resReg c := rfl

@[simp] theorem State.writeRes_none (s : State) : s.writeRes none = s := rfl

theorem State.readReg_writeRes_self (s : State) (npc : Word) (o : Option Cell) :
    (s.writeRes o).readReg npc resReg = o.getD (s.readReg npc resReg) := by
  cases o with
  | none => rfl
  | some c => exact s.readReg_writeReg_self npc c (by decide)

theorem State.readReg_writeRes_ne (s : State) (npc : Word) (o : Option Cell) {r : Reg} (h : r ≠ resReg) :
    (s.writeRes o).readReg npc r = s.readReg npc r := by
  cases o with
  | none => rfl
  | some c => exact s.readReg_writeReg_ne npc c h

/-- A residue write changes the register file and nothing else. -/
theorem State.writeRes_eq (s : State) (o : Option Cell) : ∃ rs, s.writeRes o = { s with regs := rs } := by
  cases o with
  | none => exact ⟨s.regs, rfl⟩
  | some c => exact ⟨_, rfl⟩

end Sys2Proof.Machine
end

