-- ==== Sys2Proof/Laws/Ops.lean ====
section
/-! SUPPORT. For each shared operation, once, everything it can do; later proofs cite these and unfold no operation. -/

namespace Sys2Proof.Machine

/-! ## The outcome of an instruction -/

@[simp] theorem settle_ok (s t : State) : settle s (.ok t) = .next t := rfl

@[simp] theorem settle_halt (s : State) (c : HaltCause) : settle s (.error (.halt c)) = .next (s.haltWith c) := rfl

/-- A next state is the action's own or the halted machine. -/
theorem settle_next {s t : State} {x : Except Stop State} (h : settle s x = .next t) :
    x = .ok t ∨ ∃ c, x = .error (.halt c) ∧ t = s.haltWith c := by
  rcases x with (_ | _ | _) | _ <;> simp_all [settle]

theorem settle_fault {s : State} {x : Except Stop State} {r : Fault} (h : settle s x = .fault r) :
    x = .error (.fault r) := by
  rcases x with (_ | _ | _) | _ <;> simp_all [settle]

theorem settle_refused {s : State} {x : Except Stop State} {r : Refusal} (h : settle s x = .refused r) :
    x = .error (.refuse r) := by
  rcases x with (_ | _ | _) | _ <;> simp_all [settle]

/-! ## Checks -/

@[simp] theorem rejectPc_pc : rejectPc pcReg = .error (.halt .invalidOperand) := rfl

theorem rejectPc_ne {d : Reg} (h : d ≠ pcReg) : rejectPc d = .ok () := by simp [rejectPc, h]

theorem rejectPc_ok {d : Reg} {u : Unit} (h : rejectPc d = .ok u) : d ≠ pcReg := by
  intro e; subst e; simp at h

@[simp] theorem rejectRes_res : rejectRes resReg = .error (.refuse .residueWrittenTwice) := rfl

theorem rejectRes_ne {d : Reg} (h : d ≠ resReg) : rejectRes d = .ok () := by simp [rejectRes, h]

theorem rejectRes_ok {d : Reg} {u : Unit} (h : rejectRes d = .ok u) : d ≠ resReg := by
  intro e; subst e; simp at h

theorem requireDiv_cases (p : Params) :
    (p.hasDiv = true ∧ requireDiv p = .ok ()) ∨
      (p.hasDiv = false ∧ requireDiv p = .error (.halt .unimplementedInstruction)) := by
  cases h : p.hasDiv <;> simp [requireDiv, h]

/-! ## Data accesses -/

theorem requireByte_present {p : Params} {a : Word} (h : Params.present p a = true) : requireByte p a = .ok () := by
  simp [requireByte, h]

theorem requireByte_cases (p : Params) (a : Word) :
    requireByte p a = .ok () ∨ requireByte p a = .error (.fault (.absentByte a)) := by
  unfold requireByte; split <;> simp

theorem requireAligned_cases (p : Params) (a : Word) :
    requireAligned p a = .ok () ∨
      (requireAligned p a = .error (.halt .misalignedData) ∧ a.getLsbD 0 = true ∧ p.misalignedData = .halt) := by
  unfold requireAligned
  cases h : a.getLsbD 0 <;> cases h' : p.misalignedData <;> simp

theorem requireAligned_odd {p : Params} {a : Word} (h : a.getLsbD 0 = true) (hp : p.misalignedData = .halt) :
    requireAligned p a = .error (.halt .misalignedData) := by
  simp [requireAligned, h, hp]

theorem requireAligned_ok {p : Params} {a : Word} (h : a.getLsbD 0 = false ∨ p.misalignedData = .split) :
    requireAligned p a = .ok () := by
  unfold requireAligned
  rcases h with h | h <;> rw [h]
  · rfl
  · cases a.getLsbD 0 <;> rfl

/-- What can keep a data access from happening. -/
inductive AccessStop : Stop → Prop where
  | misaligned : AccessStop (.halt .misalignedData)
  | absent (a : Word) : AccessStop (.fault (.absentByte a))

theorem State.load8_cases (s : State) (a : Word) :
    s.load8 a = .ok (s.mem.read a) ∨ ∃ e, s.load8 a = .error e ∧ AccessStop e := by
  unfold State.load8
  rcases requireByte_cases s.params a with h | h <;> rw [h]
  · exact .inl rfl
  · exact .inr ⟨_, rfl, .absent _⟩

theorem State.load16_cases (s : State) (a : Word) :
    s.load16 a = .ok (s.mem.read16 a) ∨ ∃ e, s.load16 a = .error e ∧ AccessStop e := by
  unfold State.load16
  rcases requireAligned_cases s.params a with h | ⟨h, -⟩ <;> rw [h]
  · rcases requireByte_cases s.params a with h | h <;> rw [h]
    · rcases requireByte_cases s.params (a + 1#16) with h | h <;> rw [h]
      · exact .inl rfl
      · exact .inr ⟨_, rfl, .absent _⟩
    · exact .inr ⟨_, rfl, .absent _⟩
  · exact .inr ⟨_, rfl, .misaligned⟩

theorem State.store8_cases (s : State) (a : Word) (b : Byte) :
    s.store8 a b = .ok { s with mem := s.mem.write a b } ∨ ∃ e, s.store8 a b = .error e ∧ AccessStop e := by
  unfold State.store8
  rcases requireByte_cases s.params a with h | h <;> rw [h]
  · exact .inl rfl
  · exact .inr ⟨_, rfl, .absent _⟩

theorem State.store16_cases (s : State) (a v : Word) :
    s.store16 a v = .ok { s with mem := s.mem.write16 a v } ∨ ∃ e, s.store16 a v = .error e ∧ AccessStop e := by
  unfold State.store16
  rcases requireAligned_cases s.params a with h | ⟨h, -⟩ <;> rw [h]
  · rcases requireByte_cases s.params a with h | h <;> rw [h]
    · rcases requireByte_cases s.params (a + 1#16) with h | h <;> rw [h]
      · exact .inl rfl
      · exact .inr ⟨_, rfl, .absent _⟩
    · exact .inr ⟨_, rfl, .absent _⟩
  · exact .inr ⟨_, rfl, .misaligned⟩

/-- Where the byte exists a byte load answers it. -/
theorem State.load8_present {s : State} {a : Word} (h : Params.present s.params a = true) :
    s.load8 a = .ok (s.mem.read a) := by
  simp only [State.load8, requireByte_present h]; rfl

/-- Where the byte exists a byte store happens. -/
theorem State.store8_present {s : State} {a : Word} (b : Byte) (h : Params.present s.params a = true) :
    s.store8 a b = .ok { s with mem := s.mem.write a b } := by
  simp only [State.store8, requireByte_present h]; rfl

/-- An aligned half-word load of two bytes that exist answers them. -/
theorem State.load16_accessible {s : State} {a : Word}
    (ha : a.getLsbD 0 = false ∨ s.params.misalignedData = .split) (h : Params.present s.params a = true)
    (h' : Params.present s.params (a + 1#16) = true) : s.load16 a = .ok (s.mem.read16 a) := by
  simp only [State.load16, requireAligned_ok ha, requireByte_present h, requireByte_present h']; rfl

/-- An aligned half-word store to two bytes that exist happens. -/
theorem State.store16_accessible {s : State} {a : Word} (v : Word)
    (ha : a.getLsbD 0 = false ∨ s.params.misalignedData = .split) (h : Params.present s.params a = true)
    (h' : Params.present s.params (a + 1#16) = true) :
    s.store16 a v = .ok { s with mem := s.mem.write16 a v } := by
  simp only [State.store16, requireAligned_ok ha, requireByte_present h, requireByte_present h']; rfl

/-- An odd address where MISALIGNED_DATA is halt stops a half-word load before anything else. -/
theorem State.load16_odd {s : State} {a : Word} (h : a.getLsbD 0 = true) (hp : s.params.misalignedData = .halt) :
    s.load16 a = .error (.halt .misalignedData) := by
  simp only [State.load16, requireAligned_odd h hp]; rfl

theorem State.store16_odd {s : State} {a : Word} (v : Word) (h : a.getLsbD 0 = true)
    (hp : s.params.misalignedData = .halt) : s.store16 a v = .error (.halt .misalignedData) := by
  simp only [State.store16, requireAligned_odd h hp]; rfl

/-! ## Effective addresses -/

theorem ea32_reg_pc (s : State) (npc ds : Word) (x r : Reg) (y1 : BitVec 2) :
    ea32 s npc ds ⟨x, r, y1, .reg pcReg⟩ = .error (.halt .invalidOperand) := rfl

theorem ea32_reg (s : State) (npc ds : Word) (x r : Reg) (y1 : BitVec 2) {t : Reg} (h : t ≠ pcReg) :
    ea32 s npc ds ⟨x, r, y1, .reg t⟩ =
      .ok ((s.readReg npc x).v + indexValue s npc r * ds * scaleOf y1 + (s.readReg npc t).v) := by
  simp only [ea32, offsetValue32, h, if_false]; rfl

theorem ea32_imm (s : State) (npc ds : Word) (x r : Reg) (y1 : BitVec 2) (n : BitVec 4) :
    ea32 s npc ds ⟨x, r, y1, .imm n⟩ =
      .ok ((s.readReg npc x).v + indexValue s npc r * ds * scaleOf y1 + n16Of32 n) := rfl

theorem ea32_cases (s : State) (npc ds : Word) (a : Addr32) :
    (∃ e, ea32 s npc ds a = .ok e) ∨
      (a.x = .reg pcReg ∧ ea32 s npc ds a = .error (.halt .invalidOperand)) := by
  obtain ⟨x, r, y1, t | n⟩ := a
  · by_cases h : t = pcReg
    · subst h; exact .inr ⟨rfl, rfl⟩
    · exact .inl ⟨_, ea32_reg s npc ds x r y1 h⟩
  · exact .inl ⟨_, rfl⟩

/-! ## Arithmetic -/

@[simp] theorem clearE_v (c : Cell) : (clearE c).v = c.v := by unfold clearE; split <;> rfl

@[simp] theorem clearE_t (c : Cell) : (clearE c).t = c.t := by unfold clearE; split <;> simp_all

/-- An integer cell has no exponent bits left (10_state.md R14). -/
theorem clearE_e {c : Cell} (h : c.t = .u ∨ c.t = .s) : (clearE c).e = 0#2 := by
  rcases h with h | h <;> simp [clearE, h]

/-- A float cell is left as it is. -/
theorem clearE_float {c : Cell} (h : c.t = .f ∨ c.t = .f2) : clearE c = c := by
  rcases h with h | h <;> simp [clearE, h]

/-- Whatever its exponent bits were, an integer cell becomes the same cell. -/
theorem clearE_setE {c : Cell} (e : BitVec 2) (h : c.t = .u ∨ c.t = .s) : clearE { c with e := e } = clearE c := by
  rcases h with h | h <;> simp [clearE, h]

/-- The type rule: a result, or the one halt, of two types where MIXED_TYPES is false. -/
theorem arithResult_cases (p : Params) (op : ArithOp) (a b : Cell) :
    (∃ r, arithResult p op a b = .ok r) ∨
      (a.t ≠ b.t ∧ p.mixedTypes = false ∧ arithResult p op a b = .error (.halt .unimplementedInstruction)) := by
  unfold arithResult
  split
  · split <;> exact .inl ⟨_, rfl⟩
  · next h =>
    cases hm : p.mixedTypes
    · exact .inr ⟨h, rfl, rfl⟩
    · exact .inl ⟨_, rfl⟩

theorem arithResult_mixed {p : Params} {a b : Cell} (op : ArithOp) (h : a.t ≠ b.t) (hp : p.mixedTypes = false) :
    arithResult p op a b = .error (.halt .unimplementedInstruction) := by
  simp [arithResult, h, hp]

/-- An immediate operand has the type it is made for. -/
@[simp] theorem immCell_t (t : Ty) (n16 : Word) (long : Bool) : (immCell t n16 long).t = t := by
  cases t <;> rfl

theorem doAdd_cases (d : Reg) (a b : Cell) (npc : Word) (s : State) :
    (∃ r, arithResult s.params .add a b = .ok r ∧ d ≠ resReg ∧
      doAdd d a b npc s = .ok ((s.writeRes r.2).writeOrJump d r.1 npc)) ∨
      (doAdd d a b npc s = .error (.halt .unimplementedInstruction)) ∨
        (d = resReg ∧ doAdd d a b npc s = .error (.refuse .residueWrittenTwice)) := by
  unfold doAdd
  rcases arithResult_cases s.params .add a b with ⟨r, hr⟩ | ⟨-, -, hr⟩ <;> rw [hr]
  · by_cases h : d = resReg
    · subst h; exact .inr (.inr ⟨rfl, rfl⟩)
    · rw [rejectRes_ne h]; exact .inl ⟨r, rfl, h, rfl⟩
  · exact .inr (.inl rfl)

theorem doSub_cases (d : Reg) (a b : Cell) (npc : Word) (s : State) :
    (∃ r, arithResult s.params .sub a b = .ok r ∧ d ≠ resReg ∧ d ≠ pcReg ∧
      doSub d a b npc s = .ok (((s.writeRes r.2).writeReg d r.1).setPc npc)) ∨
      (∃ c, doSub d a b npc s = .error (.halt c)) ∨
        (d = resReg ∧ doSub d a b npc s = .error (.refuse .residueWrittenTwice)) := by
  unfold doSub
  by_cases hd : d = pcReg
  · subst hd; exact .inr (.inl ⟨_, rfl⟩)
  · rw [rejectPc_ne hd]
    rcases arithResult_cases s.params .sub a b with ⟨r, hr⟩ | ⟨-, -, hr⟩ <;> rw [hr]
    · by_cases h : d = resReg
      · subst h; exact .inr (.inr ⟨rfl, rfl⟩)
      · rw [rejectRes_ne h]; exact .inl ⟨r, rfl, h, hd, rfl⟩
    · exact .inr (.inl ⟨_, rfl⟩)

theorem doMul_cases (d : Reg) (a b : Cell) (npc : Word) (s : State) :
    (∃ r, arithResult s.params .mul a b = .ok r ∧ d ≠ resReg ∧
      doMul d a b npc s = .ok ((s.writeRes r.2).writeOrBlock d r.1 npc)) ∨
      (doMul d a b npc s = .error (.halt .unimplementedInstruction)) ∨
        (d = resReg ∧ doMul d a b npc s = .error (.refuse .residueWrittenTwice)) := by
  unfold doMul
  rcases arithResult_cases s.params .mul a b with ⟨r, hr⟩ | ⟨-, -, hr⟩ <;> rw [hr]
  · by_cases h : d = resReg
    · subst h; exact .inr (.inr ⟨rfl, rfl⟩)
    · rw [rejectRes_ne h]; exact .inl ⟨r, rfl, h, rfl⟩
  · exact .inr (.inl rfl)

theorem doDiv_cases (d : Reg) (a b : Cell) (npc : Word) (s : State) :
    (∃ r, s.params.hasDiv = true ∧ arithResult s.params .div a b = .ok r ∧ d ≠ resReg ∧
      doDiv d a b npc s = .ok ((s.writeRes r.2).writeOrBlock d r.1 npc)) ∨
      (doDiv d a b npc s = .error (.halt .unimplementedInstruction)) ∨
        (d = resReg ∧ doDiv d a b npc s = .error (.refuse .residueWrittenTwice)) := by
  unfold doDiv
  rcases requireDiv_cases s.params with ⟨hp, h⟩ | ⟨-, h⟩ <;> rw [h]
  · rcases arithResult_cases s.params .div a b with ⟨r, hr⟩ | ⟨-, -, hr⟩ <;> rw [hr]
    · by_cases h : d = resReg
      · subst h; exact .inr (.inr ⟨rfl, rfl⟩)
      · rw [rejectRes_ne h]; exact .inl ⟨r, hp, rfl, h, rfl⟩
    · exact .inr (.inl rfl)
  · exact .inr (.inl rfl)

theorem doCmp_cases (a b : Cell) (npc : Word) (s : State) :
    (∃ r, arithResult s.params .cmp a b = .ok r ∧ doCmp a b npc s = .ok ((s.writeRes r.2).setPc npc)) ∨
      (doCmp a b npc s = .error (.halt .unimplementedInstruction)) := by
  unfold doCmp
  rcases arithResult_cases s.params .cmp a b with ⟨r, hr⟩ | ⟨-, -, hr⟩ <;> rw [hr]
  · exact .inl ⟨r, rfl, rfl⟩
  · exact .inr rfl

theorem doLogic_cases (f : Word → Word → Word) (d : Reg) (a : Word) (b : Cell) (npc : Word) (s : State) :
    (d ≠ pcReg ∧ doLogic f d a b npc s = .ok ((s.writeReg d ⟨f a b.v, b.t, b.e⟩).setPc npc)) ∨
      (d = pcReg ∧ doLogic f d a b npc s = .error (.halt .invalidOperand)) := by
  unfold doLogic
  by_cases hd : d = pcReg
  · subst hd; exact .inr ⟨rfl, rfl⟩
  · rw [rejectPc_ne hd]; exact .inl ⟨hd, rfl⟩

/-! ## Loads, LEA and stores of the 24- and 32-bit formats -/

/-- What can keep a load, LEA or store with effective address `ea` from happening. -/
inductive LoadStop (ea : Except Stop Word) : Stop → Prop where
  | access {e : Stop} (h : AccessStop e) : LoadStop ea e
  | dest : LoadStop ea (.halt .invalidOperand)
  | address {e : Stop} (h : ea = .error e) : LoadStop ea e

theorem doLdu8_cases (d : Reg) (ea : Except Stop Word) (npc : Word) (s : State) :
    (∃ a, ea = .ok a ∧ d ≠ pcReg ∧
      doLdu8 d ea npc s = .ok ((s.writeReg d ⟨(s.mem.read a).setWidth 16, .u, 0#2⟩).setPc npc)) ∨
      ∃ e, doLdu8 d ea npc s = .error e ∧ LoadStop ea e := by
  unfold doLdu8
  by_cases hd : d = pcReg
  · subst hd; exact .inr ⟨_, rfl, .dest⟩
  · rw [rejectPc_ne hd]
    rcases ea with e | a
    · exact .inr ⟨_, rfl, .address rfl⟩
    · rcases s.load8_cases a with h | ⟨e, h, he⟩
      · exact .inl ⟨a, rfl, hd, by simp [bind, Except.bind, h]; rfl⟩
      · exact .inr ⟨e, by simp [bind, Except.bind, h], .access he⟩

theorem doLds8_cases (d : Reg) (ea : Except Stop Word) (npc : Word) (s : State) :
    (∃ a, ea = .ok a ∧ d ≠ pcReg ∧
      doLds8 d ea npc s = .ok ((s.writeReg d ⟨(s.mem.read a).signExtend 16, .s, 0#2⟩).setPc npc)) ∨
      ∃ e, doLds8 d ea npc s = .error e ∧ LoadStop ea e := by
  unfold doLds8
  by_cases hd : d = pcReg
  · subst hd; exact .inr ⟨_, rfl, .dest⟩
  · rw [rejectPc_ne hd]
    rcases ea with e | a
    · exact .inr ⟨_, rfl, .address rfl⟩
    · rcases s.load8_cases a with h | ⟨e, h, he⟩
      · exact .inl ⟨a, rfl, hd, by simp [bind, Except.bind, h]; rfl⟩
      · exact .inr ⟨e, by simp [bind, Except.bind, h], .access he⟩

theorem doFld8_cases (t : FloatTy) (d : Reg) (ea : Except Stop Word) (npc : Word) (s : State) :
    (∃ a, ea = .ok a ∧ d ≠ pcReg ∧
      doFld8 t d ea npc s =
        .ok ((s.writeReg d (floatCell t (Config.floatFromMem8 t (s.mem.read a)))).setPc npc)) ∨
      ∃ e, doFld8 t d ea npc s = .error e ∧ LoadStop ea e := by
  unfold doFld8
  by_cases hd : d = pcReg
  · subst hd; exact .inr ⟨_, rfl, .dest⟩
  · rw [rejectPc_ne hd]
    rcases ea with e | a
    · exact .inr ⟨_, rfl, .address rfl⟩
    · rcases s.load8_cases a with h | ⟨e, h, he⟩
      · exact .inl ⟨a, rfl, hd, by simp [bind, Except.bind, h]; rfl⟩
      · exact .inr ⟨e, by simp [bind, Except.bind, h], .access he⟩

theorem doFld16_cases (t : FloatTy) (d : Reg) (ea : Except Stop Word) (npc : Word) (s : State) :
    (∃ a, ea = .ok a ∧ d ≠ pcReg ∧
      doFld16 t d ea npc s =
        .ok ((s.writeReg d (floatCell t (Config.floatFromMem16 t (s.mem.read16 a)))).setPc npc)) ∨
      ∃ e, doFld16 t d ea npc s = .error e ∧ LoadStop ea e := by
  unfold doFld16
  by_cases hd : d = pcReg
  · subst hd; exact .inr ⟨_, rfl, .dest⟩
  · rw [rejectPc_ne hd]
    rcases ea with e | a
    · exact .inr ⟨_, rfl, .address rfl⟩
    · rcases s.load16_cases a with h | ⟨e, h, he⟩
      · exact .inl ⟨a, rfl, hd, by simp [bind, Except.bind, h]; rfl⟩
      · exact .inr ⟨e, by simp [bind, Except.bind, h], .access he⟩

theorem doLd16_cases (t : Ty) (d : Reg) (ea : Except Stop Word) (npc : Word) (s : State) :
    (∃ a, ea = .ok a ∧ doLd16 t d ea npc s = .ok (s.writeOrJump d ⟨s.mem.read16 a, t, 0#2⟩ npc)) ∨
      ∃ e, doLd16 t d ea npc s = .error e ∧ LoadStop ea e := by
  unfold doLd16
  rcases ea with e | a
  · exact .inr ⟨_, rfl, .address rfl⟩
  · rcases s.load16_cases a with h | ⟨e, h, he⟩
    · exact .inl ⟨a, rfl, by simp [bind, Except.bind, h]; rfl⟩
    · exact .inr ⟨e, by simp [bind, Except.bind, h], .access he⟩

theorem doLea_cases (d : Reg) (ea : Except Stop Word) (npc : Word) (s : State) :
    (∃ a, ea = .ok a ∧ doLea d ea npc s = .ok (s.writeOrJump d ⟨a, .u, 0#2⟩ npc)) ∨
      ∃ e, doLea d ea npc s = .error e ∧ ea = .error e := by
  rcases ea with e | a
  · exact .inr ⟨_, rfl, rfl⟩
  · exact .inl ⟨a, rfl, rfl⟩

theorem doSt8_cases (d : Reg) (ea : Except Stop Word) (npc : Word) (s : State) :
    (∃ a, ea = .ok a ∧
      doSt8 d ea npc s = .ok ({ s with mem := s.mem.write a (storeData8 (s.readReg npc d)) }.setPc npc)) ∨
      ∃ e, doSt8 d ea npc s = .error e ∧ LoadStop ea e := by
  unfold doSt8
  rcases ea with e | a
  · exact .inr ⟨_, rfl, .address rfl⟩
  · rcases s.store8_cases a (storeData8 (s.readReg npc d)) with h | ⟨e, h, he⟩
    · exact .inl ⟨a, rfl, by simp [bind, Except.bind, h]; rfl⟩
    · exact .inr ⟨e, by simp [bind, Except.bind, h], .access he⟩

theorem doSt16_cases (d : Reg) (ea : Except Stop Word) (npc : Word) (s : State) :
    (∃ a, ea = .ok a ∧
      doSt16 d ea npc s = .ok ({ s with mem := s.mem.write16 a (storeData16 (s.readReg npc d)) }.setPc npc)) ∨
      ∃ e, doSt16 d ea npc s = .error e ∧ LoadStop ea e := by
  unfold doSt16
  rcases ea with e | a
  · exact .inr ⟨_, rfl, .address rfl⟩
  · rcases s.store16_cases a (storeData16 (s.readReg npc d)) with h | ⟨e, h, he⟩
    · exact .inl ⟨a, rfl, by simp [bind, Except.bind, h]; rfl⟩
    · exact .inr ⟨e, by simp [bind, Except.bind, h], .access he⟩

/-! ## Ports: what N names -/

theorem ioTarget_port {n16 : Word} {k : Fin 16} (h : n16.toInt = k.val) : ioTarget n16 = .port k := by
  obtain ⟨k, hk⟩ := k
  simp only at h
  have hp : 0 ≤ n16.toInt ∧ n16.toInt ≤ 15 := by omega
  simp only [ioTarget, hp, and_self, dif_pos]
  congr 2; omega

theorem ioTarget_ireg {n16 : Word} {k : Fin 15} (h : n16.toInt = -((k.val : Int) + 1)) : ioTarget n16 = .ireg k := by
  obtain ⟨k, hk⟩ := k
  simp only at h
  have hp : ¬(0 ≤ n16.toInt ∧ n16.toInt ≤ 15) := by omega
  have hi : -15 ≤ n16.toInt ∧ n16.toInt ≤ -1 := by omega
  unfold ioTarget
  rw [dif_neg hp, dif_pos hi]
  congr 2; omega

theorem ioTarget_memory {n16 : Word} (h : n16.toInt < -15 ∨ 15 < n16.toInt) : ioTarget n16 = .memory n16 := by
  have hp : ¬(0 ≤ n16.toInt ∧ n16.toInt ≤ 15) := by omega
  have hi : ¬(-15 ≤ n16.toInt ∧ n16.toInt ≤ -1) := by omega
  simp [ioTarget, hp, hi]

end Sys2Proof.Machine
end

