-- ==== Sys2Proof/Laws/Frames.lean ====
section
/-! SUPPORT. The frames of Safety.lean for the forms every meaning ends in: a register write and a new pc, a jump, a
residue write before either. -/

namespace Sys2Proof.Machine

/-- A new pc changes nothing else. -/
theorem onlyRegs_setPc (s : State) (v : Word) : OnlyRegs s (s.setPc v) [] :=
  ⟨fun _ _ _ => rfl, fun _ _ => rfl, by simp [RestKept]⟩

/-- A write to D and a new pc change nothing else. -/
theorem onlyRegs_writeReg_setPc (s : State) (d : Reg) (c : Cell) (v : Word) :
    OnlyRegs s ((s.writeReg d c).setPc v) [d] := by
  refine ⟨fun r n h => ?_, fun _ _ => rfl, by simp [RestKept]⟩
  rw [State.readReg_setPc]
  exact State.readReg_writeReg_ne _ _ _ (by simpa using h)

theorem writesD_writeReg_setPc (s : State) {d : Reg} (c : Cell) (npc : Word) (h : d ≠ pcReg) :
    WritesD s ((s.writeReg d c).setPc npc) npc d c :=
  ⟨by rw [State.readReg_setPc]; exact State.readReg_writeReg_self _ _ _ h, rfl, onlyRegs_writeReg_setPc s d c npc⟩

theorem writesOrJumps_writeOrJump (s : State) (d : Reg) (c : Cell) (npc : Word) :
    WritesOrJumps s (s.writeOrJump d c npc) npc d c := by
  rw [State.writeOrJump_eq]
  refine ⟨fun h => ⟨?_, ?_⟩, fun h => ?_, onlyRegs_writeReg_setPc s d c _⟩
  · rw [State.readReg_setPc]; exact State.readReg_writeReg_self _ _ _ h
  · simp [h]
  · simp [h]

/-- The residue write, then the write to D and a new pc. -/
theorem writesArith_writeRes_writeReg (s : State) {d : Reg} (r : Cell × Option Cell) (npc v : Word) (h : d ≠ resReg) :
    WritesArith s (((s.writeRes r.2).writeReg d r.1).setPc v) npc d r := by
  obtain ⟨rs, hrs⟩ := s.writeRes_eq r.2
  refine ⟨fun hp => ?_, ?_, fun q n hq => ?_, fun a _ => ?_, ?_⟩
  · rw [State.readReg_setPc]; exact State.readReg_writeReg_self _ _ _ hp
  · rw [State.readReg_setPc, State.readReg_writeReg_ne _ _ _ (Ne.symm h), State.readReg_writeRes_self]
  · simp only [List.mem_cons, List.not_mem_nil, or_false, not_or] at hq
    rw [State.readReg_setPc, State.readReg_writeReg_ne _ _ _ hq.1, State.readReg_writeRes_ne _ _ _ hq.2]
  · rw [hrs]; rfl
  · rw [hrs]; simp [RestKept]

end Sys2Proof.Machine
end

