-- ==== Sys2Proof/Laws/OpMaps.lean ====
section
/-! SUPPORT. Renumberings are one-to-one, and what a window whose opcode is renumbered keeps. -/

namespace Sys2Proof

/-! ## Renumbering -/

section
variable {α : Type} [DecidableEq α] (m : Renumbering α) (x : α)

@[simp] theorem exchange_exchange (p : α × α) : exchange p (exchange p x) = x := by
  unfold exchange; split_ifs <;> simp_all

@[simp] theorem unrenumber_renumber : unrenumber m (renumber m x) = x := by
  induction m generalizing x with
  | nil => rfl
  | cons p m ih => exact (congrArg (exchange p) (ih _)).trans (exchange_exchange x p)

@[simp] theorem renumber_unrenumber : renumber m (unrenumber m x) = x := by
  induction m generalizing x with
  | nil => rfl
  | cons p m ih => exact (congrArg (renumber m) (exchange_exchange _ p)).trans (ih x)

@[simp] theorem renumber_nil : renumber [] x = x := rfl

@[simp] theorem unrenumber_nil : unrenumber [] x = x := rfl

/-- Reading a number back: the implementation's `y` is the default's `x` exactly when `x` is numbered `y`. -/
theorem unrenumber_eq_iff {y : α} : unrenumber m y = x ↔ y = renumber m x :=
  ⟨fun h => by rw [← h, renumber_unrenumber], fun h => by rw [h, unrenumber_renumber]⟩

end

/-! ## The bits of a window with another opcode -/

theorem getLsbD_withOp5 (w : BitVec 32) (o : BitVec 5) (k : Nat) :
    (withOp5 w o).getLsbD k = if 1 ≤ k ∧ k < 6 then o.getLsbD (k - 1) else w.getLsbD k := by
  simp only [withOp5, BitVec.getLsbD_append, BitVec.getLsbD_extractLsb']
  rcases Nat.lt_or_ge k 32 with h | h
  · interval_cases k <;> simp
  · rw [if_neg (show ¬(1 ≤ k ∧ k < 6) by omega), w.getLsbD_of_ge k h, if_neg (show ¬k < 1 by omega),
      if_neg (show ¬k - 1 < 5 by omega), show decide (k - 1 - 5 < 26) = false by simp; omega, Bool.false_and]

theorem getLsbD_withOp6 (w : BitVec 32) (o : BitVec 6) (k : Nat) :
    (withOp6 w o).getLsbD k =
      if 2 ≤ k ∧ k < 6 then o.getLsbD (k - 2) else if 16 ≤ k ∧ k < 18 then o.getLsbD (k - 12) else w.getLsbD k := by
  rcases Nat.lt_or_ge k 32 with h | h
  · simp only [withOp6, BitVec.getLsbD_append, BitVec.getLsbD_extractLsb']
    interval_cases k <;> simp
  · rw [if_neg (by omega), if_neg (by omega), w.getLsbD_of_ge k h, (withOp6 w o).getLsbD_of_ge k h]

theorem getLsbD_withOp9 (w : BitVec 32) (o : BitVec 9) (k : Nat) :
    (withOp9 w o).getLsbD k =
      if 2 ≤ k ∧ k < 6 then o.getLsbD (k - 2) else if 16 ≤ k ∧ k < 18 then o.getLsbD (k - 12)
      else if 24 ≤ k ∧ k < 27 then o.getLsbD (k - 18) else w.getLsbD k := by
  rcases Nat.lt_or_ge k 32 with h | h
  · simp only [withOp9, BitVec.getLsbD_append, BitVec.getLsbD_extractLsb']
    interval_cases k <;> simp
  · rw [if_neg (by omega), if_neg (by omega), if_neg (by omega), w.getLsbD_of_ge k h, (withOp9 w o).getLsbD_of_ge k h]

theorem getLsbD_fieldOp5 (w : BitVec 32) (k : Nat) :
    (fieldOp5 w).getLsbD k = (decide (k < 5) && w.getLsbD (k + 1)) := by
  simp only [fieldOp5, BitVec.getLsbD_extractLsb', Nat.add_comm]

theorem getLsbD_fieldOp6 (w : BitVec 32) (k : Nat) :
    (fieldOp6 w).getLsbD k = if k < 4 then w.getLsbD (k + 2) else decide (k < 6) && w.getLsbD (k + 12) := by
  simp only [fieldOp6, BitVec.getLsbD_append, BitVec.getLsbD_extractLsb']
  split
  · next h => simp [h, Nat.add_comm]
  · next h => rw [show 16 + (k - 4) = k + 12 by omega, decide_eq_decide.mpr (show k - 4 < 2 ↔ k < 6 by omega)]

theorem getLsbD_fieldOp9 (w : BitVec 32) (k : Nat) :
    (fieldOp9 w).getLsbD k =
      if k < 4 then w.getLsbD (k + 2) else if k < 6 then w.getLsbD (k + 12) else decide (k < 9) && w.getLsbD (k + 18) := by
  simp only [fieldOp9, BitVec.getLsbD_append, getLsbD_fieldOp6]
  split_ifs with h6 h4 h4
  · rfl
  · simp [h6]
  · omega
  · rw [fieldOpC, BitVec.getLsbD_extractLsb', show 24 + (k - 6) = k + 18 by omega,
      decide_eq_decide.mpr (show k - 6 < 3 ↔ k < 9 by omega)]

@[simp] theorem formatOf_withOp5 (w : BitVec 32) (o : BitVec 5) (h : formatOf w = .b16) :
    formatOf (withOp5 w o) = .b16 := by
  cases h0 : w.getLsbD 0
  · cases h1 : w.getLsbD 1 <;> simp [formatOf, h0, h1, -BitVec.getLsbD_eq_getElem] at h
  · simp [formatOf, getLsbD_withOp5, h0, -BitVec.getLsbD_eq_getElem]

@[simp] theorem formatOf_withOp6 (w : BitVec 32) (o : BitVec 6) : formatOf (withOp6 w o) = formatOf w := by
  simp [formatOf, getLsbD_withOp6, -BitVec.getLsbD_eq_getElem]

@[simp] theorem formatOf_withOp9 (w : BitVec 32) (o : BitVec 9) : formatOf (withOp9 w o) = formatOf w := by
  simp [formatOf, getLsbD_withOp9, -BitVec.getLsbD_eq_getElem]

@[simp] theorem fieldOp5_withOp5 (w : BitVec 32) (o : BitVec 5) : fieldOp5 (withOp5 w o) = o := by
  refine BitVec.eq_of_getLsbD_eq fun k hk => ?_
  simp [getLsbD_fieldOp5, getLsbD_withOp5, hk, -BitVec.getLsbD_eq_getElem]

@[simp] theorem fieldOp6_withOp6 (w : BitVec 32) (o : BitVec 6) : fieldOp6 (withOp6 w o) = o := by
  refine BitVec.eq_of_getLsbD_eq fun k hk => ?_
  simp only [getLsbD_fieldOp6, getLsbD_withOp6]
  interval_cases k <;> simp

@[simp] theorem fieldOp9_withOp9 (w : BitVec 32) (o : BitVec 9) : fieldOp9 (withOp9 w o) = o := by
  refine BitVec.eq_of_getLsbD_eq fun k hk => ?_
  simp only [getLsbD_fieldOp9, getLsbD_withOp9]
  interval_cases k <;> simp

@[simp] theorem withOp5_withOp5 (w : BitVec 32) (o o' : BitVec 5) : withOp5 (withOp5 w o) o' = withOp5 w o' := by
  refine BitVec.eq_of_getLsbD_eq fun k _ => ?_
  simp only [getLsbD_withOp5]; split <;> rfl

@[simp] theorem withOp6_withOp6 (w : BitVec 32) (o o' : BitVec 6) : withOp6 (withOp6 w o) o' = withOp6 w o' := by
  refine BitVec.eq_of_getLsbD_eq fun k _ => ?_
  simp only [getLsbD_withOp6]; split_ifs <;> rfl

@[simp] theorem withOp9_withOp9 (w : BitVec 32) (o o' : BitVec 9) : withOp9 (withOp9 w o) o' = withOp9 w o' := by
  refine BitVec.eq_of_getLsbD_eq fun k _ => ?_
  simp only [getLsbD_withOp9]; split_ifs <;> rfl

@[simp] theorem withOp5_fieldOp5 (w : BitVec 32) : withOp5 w (fieldOp5 w) = w := by
  refine BitVec.eq_of_getLsbD_eq fun k _ => ?_
  rw [getLsbD_withOp5, getLsbD_fieldOp5]
  split
  · next h => rw [Nat.sub_add_cancel h.1, show decide (k - 1 < 5) = true by simp; omega, Bool.true_and]
  · rfl

@[simp] theorem withOp6_fieldOp6 (w : BitVec 32) : withOp6 w (fieldOp6 w) = w := by
  refine BitVec.eq_of_getLsbD_eq fun k hk => ?_
  rw [getLsbD_withOp6, getLsbD_fieldOp6, getLsbD_fieldOp6]
  interval_cases k <;> simp

@[simp] theorem withOp9_fieldOp9 (w : BitVec 32) : withOp9 w (fieldOp9 w) = w := by
  refine BitVec.eq_of_getLsbD_eq fun k hk => ?_
  rw [getLsbD_withOp9, getLsbD_fieldOp9, getLsbD_fieldOp9, getLsbD_fieldOp9]
  interval_cases k <;> simp

/-! ## What the other fields read -/

@[simp] theorem fieldD_withOp5 (w : BitVec 32) (o : BitVec 5) : fieldD (withOp5 w o) = fieldD w := by
  refine BitVec.eq_of_getLsbD_eq fun k hk => ?_
  simp only [fieldD, BitVec.getLsbD_extractLsb', getLsbD_withOp5]
  interval_cases k <;> simp

@[simp] theorem fieldS_withOp5 (w : BitVec 32) (o : BitVec 5) : fieldS (withOp5 w o) = fieldS w := by
  refine BitVec.eq_of_getLsbD_eq fun k hk => ?_
  simp only [fieldS, BitVec.getLsbD_extractLsb', getLsbD_withOp5]
  interval_cases k <;> simp

@[simp] theorem fieldD_withOp6 (w : BitVec 32) (o : BitVec 6) : fieldD (withOp6 w o) = fieldD w := by
  refine BitVec.eq_of_getLsbD_eq fun k hk => ?_
  simp only [fieldD, BitVec.getLsbD_extractLsb', getLsbD_withOp6]
  interval_cases k <;> simp

@[simp] theorem fieldS_withOp6 (w : BitVec 32) (o : BitVec 6) : fieldS (withOp6 w o) = fieldS w := by
  refine BitVec.eq_of_getLsbD_eq fun k hk => ?_
  simp only [fieldS, BitVec.getLsbD_extractLsb', getLsbD_withOp6]
  interval_cases k <;> simp

@[simp] theorem fieldR_withOp6 (w : BitVec 32) (o : BitVec 6) : fieldR (withOp6 w o) = fieldR w := by
  refine BitVec.eq_of_getLsbD_eq fun k hk => ?_
  simp only [fieldR, BitVec.getLsbD_extractLsb', getLsbD_withOp6]
  interval_cases k <;> simp

@[simp] theorem fieldD_withOp9 (w : BitVec 32) (o : BitVec 9) : fieldD (withOp9 w o) = fieldD w := by
  refine BitVec.eq_of_getLsbD_eq fun k hk => ?_
  simp only [fieldD, BitVec.getLsbD_extractLsb', getLsbD_withOp9]
  interval_cases k <;> simp

@[simp] theorem fieldS_withOp9 (w : BitVec 32) (o : BitVec 9) : fieldS (withOp9 w o) = fieldS w := by
  refine BitVec.eq_of_getLsbD_eq fun k hk => ?_
  simp only [fieldS, BitVec.getLsbD_extractLsb', getLsbD_withOp9]
  interval_cases k <;> simp

@[simp] theorem fieldR_withOp9 (w : BitVec 32) (o : BitVec 9) : fieldR (withOp9 w o) = fieldR w := by
  refine BitVec.eq_of_getLsbD_eq fun k hk => ?_
  simp only [fieldR, BitVec.getLsbD_extractLsb', getLsbD_withOp9]
  interval_cases k <;> simp

@[simp] theorem fieldT_withOp9 (w : BitVec 32) (o : BitVec 9) : fieldT (withOp9 w o) = fieldT w := by
  refine BitVec.eq_of_getLsbD_eq fun k hk => ?_
  simp only [fieldT, BitVec.getLsbD_extractLsb', getLsbD_withOp9]
  interval_cases k <;> simp

@[simp] theorem ext_withOp5 (w : BitVec 32) (o : BitVec 5) : (withOp5 w o).extractLsb' 16 16 = w.extractLsb' 16 16 := by
  refine BitVec.eq_of_getLsbD_eq fun k hk => ?_
  simp only [BitVec.getLsbD_extractLsb', getLsbD_withOp5]
  interval_cases k <;> simp

@[simp] theorem extHigh_withOp6 (w : BitVec 32) (o : BitVec 6) : (withOp6 w o).extractLsb' 24 8 = w.extractLsb' 24 8 := by
  refine BitVec.eq_of_getLsbD_eq fun k hk => ?_
  simp only [BitVec.getLsbD_extractLsb', getLsbD_withOp6]
  interval_cases k <;> simp

@[simp] theorem extLow_withOp6 (w : BitVec 32) (o : BitVec 6) : (withOp6 w o).extractLsb' 19 4 = w.extractLsb' 19 4 := by
  refine BitVec.eq_of_getLsbD_eq fun k hk => ?_
  simp only [BitVec.getLsbD_extractLsb', getLsbD_withOp6]
  interval_cases k <;> simp

@[simp] theorem top32_withOp6 (w : BitVec 32) (o : BitVec 6) : (withOp6 w o).extractLsb' 21 2 = w.extractLsb' 21 2 := by
  refine BitVec.eq_of_getLsbD_eq fun k hk => ?_
  simp only [BitVec.getLsbD_extractLsb', getLsbD_withOp6]
  interval_cases k <;> simp

@[simp] theorem top32_withOp9 (w : BitVec 32) (o : BitVec 9) : (withOp9 w o).extractLsb' 29 2 = w.extractLsb' 29 2 := by
  refine BitVec.eq_of_getLsbD_eq fun k hk => ?_
  simp only [BitVec.getLsbD_extractLsb', getLsbD_withOp9]
  interval_cases k <;> simp

@[simp] theorem top30_withOp9 (w : BitVec 32) (o : BitVec 9) : (withOp9 w o).extractLsb' 27 4 = w.extractLsb' 27 4 := by
  refine BitVec.eq_of_getLsbD_eq fun k hk => ?_
  simp only [BitVec.getLsbD_extractLsb', getLsbD_withOp9]
  interval_cases k <;> simp

@[simp] theorem y1_withOp9 (w : BitVec 32) (o : BitVec 9) : (withOp9 w o).extractLsb' 24 2 = o.extractLsb' 6 2 := by
  refine BitVec.eq_of_getLsbD_eq fun k hk => ?_
  simp only [BitVec.getLsbD_extractLsb', getLsbD_withOp9]
  interval_cases k <;> simp

@[simp] theorem top4_withOp6 (w : BitVec 32) (o : BitVec 6) : (withOp6 w o).getLsbD 23 = w.getLsbD 23 := by
  simp only [getLsbD_withOp6]; simp

@[simp] theorem top4_withOp9 (w : BitVec 32) (o : BitVec 9) : (withOp9 w o).getLsbD 31 = w.getLsbD 31 := by
  simp only [getLsbD_withOp9]; simp

@[simp] theorem opC2_withOp9 (w : BitVec 32) (o : BitVec 9) : (withOp9 w o).getLsbD 26 = o.getLsbD 8 := by
  simp only [getLsbD_withOp9]; simp

@[simp] theorem fieldIe_withOp6 (w : BitVec 32) (o : BitVec 6) : fieldIe (withOp6 w o) = fieldIe w := by
  simp only [fieldIe, getLsbD_withOp6]; simp

@[simp] theorem fieldIe_withOp9 (w : BitVec 32) (o : BitVec 9) : fieldIe (withOp9 w o) = fieldIe w := by
  simp only [fieldIe, getLsbD_withOp9]; simp

@[simp] theorem fieldOp6_withOp9 (w : BitVec 32) (o : BitVec 9) : fieldOp6 (withOp9 w o) = o.extractLsb' 0 6 := by
  refine BitVec.eq_of_getLsbD_eq fun k hk => ?_
  simp only [getLsbD_fieldOp6, getLsbD_withOp9, BitVec.getLsbD_extractLsb']
  interval_cases k <;> simp

@[simp] theorem imm16Of_withOp5 (w : BitVec 32) (o : BitVec 5) : imm16Of (withOp5 w o) = imm16Of w := by
  simp [imm16Of]

@[simp] theorem imm24Of_withOp6 (w : BitVec 32) (o : BitVec 6) : imm24Of (withOp6 w o) = imm24Of w := by
  simp only [imm24Of, top4_withOp6, top32_withOp6, extLow_withOp6, extHigh_withOp6]

@[simp] theorem imm32Of_withOp9 (w : BitVec 32) (o : BitVec 9) : imm32Of (withOp9 w o) = imm32Of w := by
  simp only [imm32Of, top4_withOp9, top32_withOp9, top30_withOp9]

/-! ## Other opcode maps -/

theorem OpMaps.toDefault_b16 (m : OpMaps) {w : BitVec 32} (h : formatOf w = .b16) :
    m.toDefault w = withOp5 w (unrenumber m.op16 (fieldOp5 w)) := by simp [OpMaps.toDefault, h]

theorem OpMaps.toDefault_b24 (m : OpMaps) {w : BitVec 32} (h : formatOf w = .b24) :
    m.toDefault w = withOp6 w (unrenumber m.op24 (fieldOp6 w)) := by simp [OpMaps.toDefault, h]

theorem OpMaps.toDefault_b32 (m : OpMaps) {w : BitVec 32} (h : formatOf w = .b32) :
    m.toDefault w = withOp9 w (unrenumber m.op32 (fieldOp9 w)) := by simp [OpMaps.toDefault, h]

theorem OpMaps.ofDefault_b16 (m : OpMaps) {w : BitVec 32} (h : formatOf w = .b16) :
    m.ofDefault w = withOp5 w (renumber m.op16 (fieldOp5 w)) := by simp [OpMaps.ofDefault, h]

theorem OpMaps.ofDefault_b24 (m : OpMaps) {w : BitVec 32} (h : formatOf w = .b24) :
    m.ofDefault w = withOp6 w (renumber m.op24 (fieldOp6 w)) := by simp [OpMaps.ofDefault, h]

theorem OpMaps.ofDefault_b32 (m : OpMaps) {w : BitVec 32} (h : formatOf w = .b32) :
    m.ofDefault w = withOp9 w (renumber m.op32 (fieldOp9 w)) := by simp [OpMaps.ofDefault, h]

@[simp] theorem OpMaps.formatOf_ofDefault (m : OpMaps) (w : BitVec 32) : formatOf (m.ofDefault w) = formatOf w := by
  unfold OpMaps.ofDefault
  split <;> simp_all

@[simp] theorem OpMaps.formatOf_toDefault (m : OpMaps) (w : BitVec 32) : formatOf (m.toDefault w) = formatOf w := by
  unfold OpMaps.toDefault
  split <;> simp_all

/-- A window renumbered for the maps `m` is read back by them as the default maps read it. -/
@[simp] theorem OpMaps.toDefault_ofDefault (m : OpMaps) (w : BitVec 32) : m.toDefault (m.ofDefault w) = w := by
  unfold OpMaps.toDefault
  rw [m.formatOf_ofDefault]
  unfold OpMaps.ofDefault
  cases h : formatOf w <;> simp

@[simp] theorem OpMaps.ofDefault_toDefault (m : OpMaps) (w : BitVec 32) : m.ofDefault (m.toDefault w) = w := by
  unfold OpMaps.ofDefault
  rw [m.formatOf_toDefault]
  unfold OpMaps.toDefault
  cases h : formatOf w <;> simp

/-- The default maps renumber nothing. -/
@[simp] theorem OpMaps.toDefault_default (w : BitVec 32) : Config.defaultParams.opMaps.toDefault w = w := by
  simp only [OpMaps.toDefault, Config.defaultParams, unrenumber_nil]
  split <;> simp

@[simp] theorem OpMaps.ofDefault_default (w : BitVec 32) : Config.defaultParams.opMaps.ofDefault w = w := by
  simp only [OpMaps.ofDefault, Config.defaultParams, renumber_nil]
  split <;> simp

/-- By the default maps `decodeBy` is `decode`. -/
@[simp] theorem decodeBy_default (bs : List Byte) : decodeBy Config.defaultParams.opMaps bs = decode bs := by
  simp [decodeBy, decodeWindowBy, decode]

/-- By the default maps `encodeBy` is `encode`. -/
@[simp] theorem encodeBy_default (i : Instr) : encodeBy Config.defaultParams.opMaps i = encode i := by
  simp [encodeBy, encode]

namespace Machine

/-! ## Type codes and internal registers -/

/-- Every type code names the type it is the code of, whatever TYCODE is (10_state.md R13). -/
@[simp] theorem tyOfBits_bitsOfTy (p : Params) (t : Ty) : tyOfBits p (bitsOfTy p t) = t := by
  simp only [tyOfBits, bitsOfTy, unrenumber_renumber]
  cases t <;> rfl

@[simp] theorem bitsOfTy_tyOfBits (p : Params) (b : BitVec 2) : bitsOfTy p (tyOfBits p b) = b := by
  have h : ∀ c : BitVec 2, defaultTyCode (tyOfDefaultCode c) = c := by decide
  simp only [tyOfBits, bitsOfTy, h, renumber_unrenumber]

/-- Two numbers of internal registers name two registers, whatever IREG_MAP is (10_state.md R24). -/
theorem iregPlace_injective (p : Params) {j k : Fin 15} (h : Params.iregPlace p j = Params.iregPlace p k) : j = k := by
  rw [Params.iregPlace, unrenumber_eq_iff] at h
  rw [h, Params.iregPlace, renumber_unrenumber]

end Machine

end Sys2Proof
end

