-- ==== Sys2Proof/Laws/PerInstr.lean ====
section
/-! SUPPORT. Statements about every instruction as syntax, one lemma per constructor. -/

/-- 30_encoding.md R65, R66: an encoding has as many bytes as the instruction occupies. -/
def Sys2Proof.Laws.EncodedLength.Statement (i : Sys2Proof.Instr) : Prop :=
  (Sys2Proof.encode i).length = i.ilen

namespace Sys2Proof.Laws.EncodedLength

theorem inn (d : Reg) (n : Imm16) : Statement (.inn d n) := by cases n <;> rfl
theorem outn (d : Reg) (n : Imm16) : Statement (.outn d n) := by cases n <;> rfl
theorem bsrn (d : Reg) (n : Imm16) : Statement (.bsrn d n) := by cases n <;> rfl
theorem brzn (d : Reg) (n : Imm16) : Statement (.brzn d n) := by cases n <;> rfl
theorem brnzn (d : Reg) (n : Imm16) : Statement (.brnzn d n) := by cases n <;> rfl
theorem brpn (d : Reg) (n : Imm16) : Statement (.brpn d n) := by cases n <;> rfl
theorem brmn (d : Reg) (n : Imm16) : Statement (.brmn d n) := by cases n <;> rfl
theorem mov (d s : Reg) : Statement (.mov d s) := rfl
theorem add (d s : Reg) : Statement (.add d s) := rfl
theorem sub (d s : Reg) : Statement (.sub d s) := rfl
theorem mul (d s : Reg) : Statement (.mul d s) := rfl
theorem div (d s : Reg) : Statement (.div d s) := rfl
theorem cmp (d s : Reg) : Statement (.cmp d s) := rfl
theorem and (d s : Reg) : Statement (.and d s) := rfl
theorem or (d s : Reg) : Statement (.or d s) := rfl
theorem xor (d s : Reg) : Statement (.xor d s) := rfl
theorem addi (d : Reg) (n : Imm16) : Statement (.addi d n) := by cases n <;> rfl
theorem subi (d : Reg) (n : Imm16) : Statement (.subi d n) := by cases n <;> rfl
theorem muli (d : Reg) (n : Imm16) : Statement (.muli d n) := by cases n <;> rfl
theorem divi (d : Reg) (n : Imm16) : Statement (.divi d n) := by cases n <;> rfl
theorem cmpi (d : Reg) (n : Imm16) : Statement (.cmpi d n) := by cases n <;> rfl
theorem andi (d : Reg) (n : Imm16) : Statement (.andi d n) := by cases n <;> rfl
theorem ori (d : Reg) (n : Imm16) : Statement (.ori d n) := by cases n <;> rfl
theorem xori (d : Reg) (n : Imm16) : Statement (.xori d n) := by cases n <;> rfl
theorem ldui (d : Reg) (n : Imm16) : Statement (.ldui d n) := by cases n <;> rfl
theorem ldsi (d : Reg) (n : Imm16) : Statement (.ldsi d n) := by cases n <;> rfl
theorem ldfi (d : Reg) (n : Imm16) : Statement (.ldfi d n) := by cases n <;> rfl
theorem ldf2i (d : Reg) (n : Imm16) : Statement (.ldf2i d n) := by cases n <;> rfl
theorem shftn (d : Reg) (n : Imm16) : Statement (.shftn d n) := by cases n <;> rfl
theorem extctn (d : Reg) (n : Imm16) : Statement (.extctn d n) := by cases n <;> rfl
theorem ldtn (d : Reg) (n : Imm16) : Statement (.ldtn d n) := by cases n <;> rfl
theorem sttn (d : Reg) (n : Imm16) : Statement (.sttn d n) := by cases n <;> rfl
theorem ldu8_24 (d : Reg) (a : Addr24) : Statement (.ldu8_24 d a) := rfl
theorem ldu16_24 (d : Reg) (a : Addr24) : Statement (.ldu16_24 d a) := rfl
theorem lds8_24 (d : Reg) (a : Addr24) : Statement (.lds8_24 d a) := rfl
theorem lds16_24 (d : Reg) (a : Addr24) : Statement (.lds16_24 d a) := rfl
theorem fld8_24 (d : Reg) (a : Addr24) : Statement (.fld8_24 d a) := rfl
theorem fld16_24 (d : Reg) (a : Addr24) : Statement (.fld16_24 d a) := rfl
theorem f2ld8_24 (d : Reg) (a : Addr24) : Statement (.f2ld8_24 d a) := rfl
theorem f2ld16_24 (d : Reg) (a : Addr24) : Statement (.f2ld16_24 d a) := rfl
theorem lea8_24 (d : Reg) (a : Addr24) : Statement (.lea8_24 d a) := rfl
theorem lea16_24 (d : Reg) (a : Addr24) : Statement (.lea16_24 d a) := rfl
theorem st8_24 (d : Reg) (a : Addr24) : Statement (.st8_24 d a) := rfl
theorem st16_24 (d : Reg) (a : Addr24) : Statement (.st16_24 d a) := rfl
theorem add_24 (d s r : Reg) : Statement (.add_24 d s r) := rfl
theorem addi_24 (d s : Reg) (n : Imm24) : Statement (.addi_24 d s n) := rfl
theorem sub_24 (d s r : Reg) : Statement (.sub_24 d s r) := rfl
theorem subi_24 (d s : Reg) (n : Imm24) : Statement (.subi_24 d s n) := rfl
theorem mul_24 (d s r : Reg) : Statement (.mul_24 d s r) := rfl
theorem muli_24 (d s : Reg) (n : Imm24) : Statement (.muli_24 d s n) := rfl
theorem div_24 (d s r : Reg) : Statement (.div_24 d s r) := rfl
theorem divi_24 (d s : Reg) (n : Imm24) : Statement (.divi_24 d s n) := rfl
theorem cmp_24 (d s r : Reg) : Statement (.cmp_24 d s r) := rfl
theorem cmpi_24 (d s : Reg) (n : Imm24) : Statement (.cmpi_24 d s n) := rfl
theorem and_24 (d s r : Reg) : Statement (.and_24 d s r) := rfl
theorem andi_24 (d s : Reg) (n : Imm24) : Statement (.andi_24 d s n) := rfl
theorem or_24 (d s r : Reg) : Statement (.or_24 d s r) := rfl
theorem ori_24 (d s : Reg) (n : Imm24) : Statement (.ori_24 d s n) := rfl
theorem xor_24 (d s r : Reg) : Statement (.xor_24 d s r) := rfl
theorem xori_24 (d s : Reg) (n : Imm24) : Statement (.xori_24 d s n) := rfl
theorem ldu8_32 (d : Reg) (a : Addr32) : Statement (.ldu8_32 d a) := rfl
theorem ldu16_32 (d : Reg) (a : Addr32) : Statement (.ldu16_32 d a) := rfl
theorem lds8_32 (d : Reg) (a : Addr32) : Statement (.lds8_32 d a) := rfl
theorem lds16_32 (d : Reg) (a : Addr32) : Statement (.lds16_32 d a) := rfl
theorem fld8_32 (d : Reg) (a : Addr32) : Statement (.fld8_32 d a) := rfl
theorem fld16_32 (d : Reg) (a : Addr32) : Statement (.fld16_32 d a) := rfl
theorem f2ld8_32 (d : Reg) (a : Addr32) : Statement (.f2ld8_32 d a) := rfl
theorem f2ld16_32 (d : Reg) (a : Addr32) : Statement (.f2ld16_32 d a) := rfl
theorem lea8_32 (d : Reg) (a : Addr32) : Statement (.lea8_32 d a) := rfl
theorem lea16_32 (d : Reg) (a : Addr32) : Statement (.lea16_32 d a) := rfl
theorem st8_32 (d : Reg) (a : Addr32) : Statement (.st8_32 d a) := rfl
theorem st16_32 (d : Reg) (a : Addr32) : Statement (.st16_32 d a) := rfl

end Sys2Proof.Laws.EncodedLength
end

