-- ==== Sys2Proof/Tests/Slice0.lean ====
section
/-! SUPPORT. Tests: the checks of WellFormed, words written out from the pictures of 30_encoding.md, one step on small
states (each vector's id in 95_test_vectors.md is in its name), and, for every statement with hypotheses, a state and
operands that meet them. -/

namespace Sys2Proof.Tests

open Sys2Proof.Machine

/-! ## WellFormed refuses each ill-formed term -/

theorem test_wf_short_escape : ¬(Instr.addi 1#5 (.short 0b10000#5)).WellFormed := by decide
theorem test_wf_long_is_fine : (Instr.addi 1#5 (.long 0b10000#16)).WellFormed := by decide
theorem test_wf_reserved_imm24 : ¬(Instr.addi_24 1#5 2#5 (.short 0b1000#4)).WellFormed := by decide
theorem test_wf_reserved_imm24_last : ¬(Instr.xori_24 1#5 2#5 (.short 0b1011#4)).WellFormed := by decide
theorem test_wf_imm24_most_negative : (Instr.xori_24 1#5 2#5 (.short 0b1100#4)).WellFormed := by decide
theorem test_wf_reserved_offset24 : ¬(Instr.ldu8_24 1#5 ⟨2#5, .offset (.short 0b1001#4)⟩).WellFormed := by decide
theorem test_wf_reserved_offset32 : ¬(Instr.st16_32 1#5 ⟨2#5, 3#5, 0#2, .imm 0b1010#4⟩).WellFormed := by decide
theorem test_wf_offset32 : (Instr.st16_32 1#5 ⟨2#5, 3#5, 0#2, .imm 0b0111#4⟩).WellFormed := by decide

/-! ## Decoding: words written out field by field

16-bit: `top d op5 1` (R61), with the extension half word to the left. 24-bit: `top ie opB s d opA 10` (R62), with the
extension byte to the left. 32-bit: `top opC r ie opB s d opA 00` (R63). -/

theorem test_decode_inn :
    decodeTableWord 16 0b10001_00011_00000_1 =
      some (.inn 3#5 (.short 0b10001#5)) := by decide

theorem test_decode_outn :
    decodeTableWord 32 0b1000111110100010_10000_01010_00001_1 =
      some (.outn 10#5 (.long 0b1000111110100010#16)) := by decide

theorem test_decode_bsrn :
    decodeTableWord 16 0b10111_10001_00010_1 =
      some (.bsrn 17#5 (.short 0b10111#5)) := by decide

theorem test_decode_brzn :
    decodeTableWord 32 0b1010111011100100_10000_11000_00011_1 =
      some (.brzn 24#5 (.long 0b1010111011100100#16)) := by decide

theorem test_decode_brnzn :
    decodeTableWord 16 0b11101_11111_00100_1 =
      some (.brnzn 31#5 (.short 0b11101#5)) := by decide

theorem test_decode_brpn :
    decodeTableWord 32 0b1100111000100110_10000_00110_00101_1 =
      some (.brpn 6#5 (.long 0b1100111000100110#16)) := by decide

theorem test_decode_brmn :
    decodeTableWord 16 0b00011_01101_00110_1 =
      some (.brmn 13#5 (.short 0b00011#5)) := by decide

theorem test_decode_mov :
    decodeTableWord 16 0b10011_10100_00111_1 =
      some (.mov 20#5 19#5) := by decide

theorem test_decode_add :
    decodeTableWord 16 0b11000_11011_01000_1 =
      some (.add 27#5 24#5) := by decide

theorem test_decode_sub :
    decodeTableWord 16 0b11101_00010_01001_1 =
      some (.sub 2#5 29#5) := by decide

theorem test_decode_mul :
    decodeTableWord 16 0b00010_01001_01010_1 =
      some (.mul 9#5 2#5) := by decide

theorem test_decode_div :
    decodeTableWord 16 0b00111_10000_01011_1 =
      some (.div 16#5 7#5) := by decide

theorem test_decode_cmp :
    decodeTableWord 16 0b01100_10111_01100_1 =
      some (.cmp 23#5 12#5) := by decide

theorem test_decode_and :
    decodeTableWord 16 0b10001_11110_01101_1 =
      some (.and 30#5 17#5) := by decide

theorem test_decode_or :
    decodeTableWord 16 0b10110_00101_01110_1 =
      some (.or 5#5 22#5) := by decide

theorem test_decode_xor :
    decodeTableWord 16 0b11011_01100_01111_1 =
      some (.xor 12#5 27#5) := by decide

theorem test_decode_addi :
    decodeTableWord 16 0b00001_10011_10000_1 =
      some (.addi 19#5 (.short 0b00001#5)) := by decide

theorem test_decode_subi :
    decodeTableWord 32 0b1000100110110010_10000_11010_10001_1 =
      some (.subi 26#5 (.long 0b1000100110110010#16)) := by decide

theorem test_decode_muli :
    decodeTableWord 16 0b00111_00001_10010_1 =
      some (.muli 1#5 (.short 0b00111#5)) := by decide

theorem test_decode_divi :
    decodeTableWord 32 0b1010100011110100_10000_01000_10011_1 =
      some (.divi 8#5 (.long 0b1010100011110100#16)) := by decide

theorem test_decode_cmpi :
    decodeTableWord 16 0b01101_01111_10100_1 =
      some (.cmpi 15#5 (.short 0b01101#5)) := by decide

theorem test_decode_andi :
    decodeTableWord 32 0b1100100000110110_10000_10110_10101_1 =
      some (.andi 22#5 (.long 0b1100100000110110#16)) := by decide

theorem test_decode_ori :
    decodeTableWord 16 0b10011_11101_10110_1 =
      some (.ori 29#5 (.short 0b10011#5)) := by decide

theorem test_decode_xori :
    decodeTableWord 32 0b1110011101111000_10000_00100_10111_1 =
      some (.xori 4#5 (.long 0b1110011101111000#16)) := by decide

theorem test_decode_ldui :
    decodeTableWord 16 0b11001_01011_11000_1 =
      some (.ldui 11#5 (.short 0b11001#5)) := by decide

theorem test_decode_ldsi :
    decodeTableWord 32 0b0000011010111010_10000_10010_11001_1 =
      some (.ldsi 18#5 (.long 0b0000011010111010#16)) := by decide

theorem test_decode_ldfi :
    decodeTableWord 16 0b11111_11001_11010_1 =
      some (.ldfi 25#5 (.short 0b11111#5)) := by decide

theorem test_decode_ldf2i :
    decodeTableWord 32 0b0010010111111100_10000_00000_11011_1 =
      some (.ldf2i 0#5 (.long 0b0010010111111100#16)) := by decide

theorem test_decode_shftn :
    decodeTableWord 16 0b00101_00111_11100_1 =
      some (.shftn 7#5 (.short 0b00101#5)) := by decide

theorem test_decode_extctn :
    decodeTableWord 32 0b0100010100111110_10000_01110_11101_1 =
      some (.extctn 14#5 (.long 0b0100010100111110#16)) := by decide

theorem test_decode_ldtn :
    decodeTableWord 16 0b01011_10101_11110_1 =
      some (.ldtn 21#5 (.short 0b01011#5)) := by decide

theorem test_decode_sttn :
    decodeTableWord 32 0b0110010010000000_10000_11100_11111_1 =
      some (.sttn 28#5 (.long 0b0110010010000000#16)) := by decide

theorem test_decode_escape_neighbour :
    decodeTableWord 16 0b10001_00001_11000_1 =
      some (.ldui 1#5 (.short 0b10001#5)) := by decide

theorem test_decode_mov_from_r16 :
    decodeTableWord 16 0b10000_00010_00111_1 =
      some (.mov 2#5 16#5) := by decide

theorem test_decode_ldu8_24 :
    decodeTableWord 24 0b00101_0_00_00100_00001_0000_10 =
      some (.ldu8_24 1#5 ⟨4#5, .index 5#5⟩) := by decide

theorem test_decode_ldu16_24 :
    decodeTableWord 24 0b11100_1_00_01011_01100_0001_10 =
      some (.ldu16_24 12#5 ⟨11#5, .offset (.short 0b1100#4)⟩) := by decide

theorem test_decode_lds8_24 :
    decodeTableWord 32 0b10111000_00111_1_00_10010_10111_0100_10 =
      some (.lds8_24 23#5 ⟨18#5, .offset (.long 0b101110000111#12)⟩) := by decide

theorem test_decode_lds16_24 :
    decodeTableWord 24 0b01110_0_00_11001_00010_0101_10 =
      some (.lds16_24 2#5 ⟨25#5, .index 14#5⟩) := by decide

theorem test_decode_fld8_24 :
    decodeTableWord 24 0b10111_1_00_00000_01101_1000_10 =
      some (.fld8_24 13#5 ⟨0#5, .offset (.short 0b0111#4)⟩) := by decide

theorem test_decode_fld16_24 :
    decodeTableWord 32 0b11110100_01010_1_00_00111_11000_1001_10 =
      some (.fld16_24 24#5 ⟨7#5, .offset (.long 0b111101001010#12)⟩) := by decide

theorem test_decode_f2ld8_24 :
    decodeTableWord 24 0b10111_0_00_01110_00011_1100_10 =
      some (.f2ld8_24 3#5 ⟨14#5, .index 23#5⟩) := by decide

theorem test_decode_f2ld16_24 :
    decodeTableWord 24 0b11111_1_00_10101_01110_1101_10 =
      some (.f2ld16_24 14#5 ⟨21#5, .offset (.short 0b1111#4)⟩) := by decide

theorem test_decode_lea8_24 :
    decodeTableWord 32 0b00110000_01101_1_01_11100_11001_0000_10 =
      some (.lea8_24 25#5 ⟨28#5, .offset (.long 0b001100001101#12)⟩) := by decide

theorem test_decode_lea16_24 :
    decodeTableWord 24 0b00000_0_01_00011_00100_0001_10 =
      some (.lea16_24 4#5 ⟨3#5, .index 0#5⟩) := by decide

theorem test_decode_st8_24 :
    decodeTableWord 24 0b10000_1_01_01010_01111_0100_10 =
      some (.st8_24 15#5 ⟨10#5, .offset (.short 0b0000#4)⟩) := by decide

theorem test_decode_st16_24 :
    decodeTableWord 32 0b01101101_00000_1_01_10001_11010_0101_10 =
      some (.st16_24 26#5 ⟨17#5, .offset (.long 0b011011010000#12)⟩) := by decide

theorem test_decode_add_24 :
    decodeTableWord 24 0b00110_0_01_10001_00010_1000_10 =
      some (.add_24 2#5 17#5 6#5) := by decide

theorem test_decode_addi_24 :
    decodeTableWord 24 0b10101_1_01_10001_00010_1000_10 =
      some (.addi_24 2#5 17#5 (.short 0b0101#4)) := by decide

theorem test_decode_sub_24 :
    decodeTableWord 24 0b01001_0_01_10110_01011_1001_10 =
      some (.sub_24 11#5 22#5 9#5) := by decide

theorem test_decode_subi_24 :
    decodeTableWord 32 0b10110000_01010_1_01_10110_01011_1001_10 =
      some (.subi_24 11#5 22#5 (.long 0b101100001010#12)) := by decide

theorem test_decode_mul_24 :
    decodeTableWord 24 0b01100_0_01_11011_10100_1010_10 =
      some (.mul_24 20#5 27#5 12#5) := by decide

theorem test_decode_muli_24 :
    decodeTableWord 24 0b11101_1_01_11011_10100_1010_10 =
      some (.muli_24 20#5 27#5 (.short 0b1101#4)) := by decide

theorem test_decode_div_24 :
    decodeTableWord 24 0b01111_0_01_00000_11101_1011_10 =
      some (.div_24 29#5 0#5 15#5) := by decide

theorem test_decode_divi_24 :
    decodeTableWord 32 0b00010001_01100_1_01_00000_11101_1011_10 =
      some (.divi_24 29#5 0#5 (.long 0b000100011100#12)) := by decide

theorem test_decode_cmp_24 :
    decodeTableWord 24 0b10010_0_01_00101_00110_1100_10 =
      some (.cmp_24 6#5 5#5 18#5) := by decide

theorem test_decode_cmpi_24 :
    decodeTableWord 24 0b10010_1_01_00101_00110_1100_10 =
      some (.cmpi_24 6#5 5#5 (.short 0b0010#4)) := by decide

theorem test_decode_and_24 :
    decodeTableWord 24 0b10101_0_01_01010_01111_1101_10 =
      some (.and_24 15#5 10#5 21#5) := by decide

theorem test_decode_andi_24 :
    decodeTableWord 32 0b01110010_01110_1_01_01010_01111_1101_10 =
      some (.andi_24 15#5 10#5 (.long 0b011100101110#12)) := by decide

theorem test_decode_or_24 :
    decodeTableWord 24 0b11000_0_01_01111_11000_1110_10 =
      some (.or_24 24#5 15#5 24#5) := by decide

theorem test_decode_ori_24 :
    decodeTableWord 24 0b11110_1_01_01111_11000_1110_10 =
      some (.ori_24 24#5 15#5 (.short 0b1110#4)) := by decide

theorem test_decode_xor_24 :
    decodeTableWord 24 0b11011_0_01_10100_00001_1111_10 =
      some (.xor_24 1#5 20#5 27#5) := by decide

theorem test_decode_xori_24 :
    decodeTableWord 32 0b11010100_00000_1_01_10100_00001_1111_10 =
      some (.xori_24 1#5 20#5 (.long 0b110101000000#12)) := by decide

theorem test_decode_ldu8_32 :
    decodeTableWord 32 0b00001_000_01001_0_00_01000_00010_0000_00 =
      some (.ldu8_32 2#5 ⟨8#5, 9#5, 0#2, .reg 1#5⟩) := by decide

theorem test_decode_ldu16_32 :
    decodeTableWord 32 0b10000_001_01110_1_00_01011_01111_0001_00 =
      some (.ldu16_32 15#5 ⟨11#5, 14#5, 1#2, .imm 0b0000#4⟩) := by decide

theorem test_decode_lds8_32 :
    decodeTableWord 32 0b01111_010_10011_0_00_01110_11100_0100_00 =
      some (.lds8_32 28#5 ⟨14#5, 19#5, 2#2, .reg 15#5⟩) := by decide

theorem test_decode_lds16_32 :
    decodeTableWord 32 0b10111_011_11000_1_00_10001_01001_0101_00 =
      some (.lds16_32 9#5 ⟨17#5, 24#5, 3#2, .imm 0b0111#4⟩) := by decide

theorem test_decode_fld8_32 :
    decodeTableWord 32 0b11101_000_11101_0_00_10100_10110_1000_00 =
      some (.fld8_32 22#5 ⟨20#5, 29#5, 0#2, .reg 29#5⟩) := by decide

theorem test_decode_fld16_32 :
    decodeTableWord 32 0b11100_001_00010_1_00_10111_00011_1001_00 =
      some (.fld16_32 3#5 ⟨23#5, 2#5, 1#2, .imm 0b1100#4⟩) := by decide

theorem test_decode_f2ld8_32 :
    decodeTableWord 32 0b01011_010_00111_0_00_11010_10000_1100_00 =
      some (.f2ld8_32 16#5 ⟨26#5, 7#5, 2#2, .reg 11#5⟩) := by decide

theorem test_decode_f2ld16_32 :
    decodeTableWord 32 0b11111_011_01100_1_00_11101_11101_1101_00 =
      some (.f2ld16_32 29#5 ⟨29#5, 12#5, 3#2, .imm 0b1111#4⟩) := by decide

theorem test_decode_lea8_32 :
    decodeTableWord 32 0b11001_000_10001_0_01_00000_01010_0000_00 =
      some (.lea8_32 10#5 ⟨0#5, 17#5, 0#2, .reg 25#5⟩) := by decide

theorem test_decode_lea16_32 :
    decodeTableWord 32 0b10011_001_10110_1_01_00011_10111_0001_00 =
      some (.lea16_32 23#5 ⟨3#5, 22#5, 1#2, .imm 0b0011#4⟩) := by decide

theorem test_decode_st8_32 :
    decodeTableWord 32 0b00111_010_11011_0_01_00110_00100_0100_00 =
      some (.st8_32 4#5 ⟨6#5, 27#5, 2#2, .reg 7#5⟩) := by decide

theorem test_decode_st16_32 :
    decodeTableWord 32 0b11101_011_00000_1_01_01001_10001_0101_00 =
      some (.st16_32 17#5 ⟨9#5, 0#5, 3#2, .imm 0b1101#4⟩) := by decide

theorem test_refused_absent_size_24 : decodeTableWord 24 0b00101_0_00_00100_00011_0010_10 = none := by decide

theorem test_refused_op6_32_24 : decodeTableWord 24 0b00101_0_10_00100_00011_0000_10 = none := by decide

theorem test_refused_imm_11000_24 : decodeTableWord 24 0b11000_1_00_00100_00011_0001_10 = none := by decide

theorem test_refused_imm_11011_24 : decodeTableWord 24 0b11011_1_01_00100_00011_1000_10 = none := by decide

theorem test_refused_add_slot_32 : decodeTableWord 32 0b00110_000_00101_0_01_00100_00011_1000_00 = none := by decide

theorem test_refused_opC_100_32 : decodeTableWord 32 0b00110_100_00101_0_00_00100_00011_0000_00 = none := by decide

theorem test_refused_imm_00101_32 : decodeTableWord 32 0b00101_000_00101_1_00_00100_00011_0001_00 = none := by decide

theorem test_refused_imm_11010_32 : decodeTableWord 32 0b11010_000_00101_1_00_00100_00011_0001_00 = none := by decide

/-! ## Steps -/

/-- The outcome is a next state that runs on and of which `p` holds. -/
def runs (s : State) (p : State → Bool) : Bool :=
  match step s with
  | .next t => !t.halted && p t
  | _ => false

/-- The outcome is the start state halted with a label (60_exceptions.md R290). -/
def halts (c : HaltCause) (s : State) : Bool :=
  match step s with
  | .next t => decide (t = s.haltWith c)
  | _ => false

/-- A byte of the start state's memory. -/
def poke (s : State) (a : Word) (b : Byte) : State := { s with mem := s.mem.write a b }

/-- The reset machine with an instruction's bytes at an address and the pc there. -/
def startAt (pc : Word) (bs : List Byte) : State := State.launchBytes (State.reset.setPc pc) pc bs

theorem test_inn_T2 :
    runs
      (poke (poke (startAt 0x0100 [0xC1, 0x80, 0x00, 0x20]) 0x2000 0x34) 0x2001 0x12)
      (fun t => t.readReg 0 3 == ⟨0x1234, .u, 0⟩ && t.pc == 0x0104) = true := by
  decide

theorem test_outn_T10 :
    runs
      ((startAt 0x0100 [0x03, 0xF1]).writeReg 4 ⟨0x0081, .u, 0⟩)
      (fun t => t.readIreg 1 == 0x0081 && t.pc == 0x0102) = true := by
  decide

theorem test_outn_T11 :
    runs
      (startAt 0x0100 [0xC3, 0x0F])
      (fun t => t.outputs == [⟨1, 0x0102⟩] && t.pc == 0x0102) = true := by
  decide

theorem test_bsrn_T15 :
    runs
      (startAt 0x0100 [0x85, 0x87, 0x00, 0x01])
      (fun t => t.readReg 0 30 == ⟨0x0104, .u, 0⟩ && t.pc == 0x0204) = true := by
  decide

theorem test_bsrn_T14 :
    runs
      (startAt 0x0100 [0xC5, 0xF7])
      (fun t => t.pc == 0x0100) = true := by
  decide

theorem test_brzn_T20 :
    runs
      ((startAt 0xFFFE [0x47, 0x20]).writeReg 1 ⟨0x0000, .s, 0⟩)
      (fun t => t.pc == 0x0004) = true := by
  decide

theorem test_brzn_T19 :
    runs
      ((startAt 0x0200 [0x47, 0x20]).writeReg 1 ⟨0x0007, .u, 0⟩)
      (fun t => t.pc == 0x0202) = true := by
  decide

theorem test_brnzn_T22 :
    runs
      ((startAt 0x0008 [0x49, 0xD0]).writeReg 1 ⟨0x0004, .u, 0⟩)
      (fun t => t.pc == 0x0004) = true := by
  decide

theorem test_brnzn_T23 :
    runs
      ((startAt 0x0008 [0x49, 0xD0]).writeReg 1 ⟨0x0000, .u, 0⟩)
      (fun t => t.pc == 0x000A) = true := by
  decide

theorem test_brpn_T26 :
    runs
      ((startAt 0x0300 [0x8B, 0x40]).writeReg 2 ⟨0xFFFF, .u, 0⟩)
      (fun t => t.pc == 0x030A) = true := by
  decide

theorem test_brpn_T25 :
    runs
      ((startAt 0x0300 [0x8B, 0x40]).writeReg 2 ⟨0xFFFF, .s, 0⟩)
      (fun t => t.pc == 0x0302) = true := by
  decide

theorem test_brmn_T28 :
    runs
      ((startAt 0x0300 [0x8D, 0x40]).writeReg 2 ⟨0xFFFF, .s, 0⟩)
      (fun t => t.pc == 0x030A) = true := by
  decide

theorem test_brmn_T30 :
    runs
      ((startAt 0x0300 [0x8D, 0x40]).writeReg 2 ⟨0x8000, .u, 0⟩)
      (fun t => t.pc == 0x0302) = true := by
  decide

theorem test_mov_T33 :
    runs
      ((startAt 0x0100 [0x8F, 0x08]).writeReg 1 ⟨0x3C00, .f, 2⟩)
      (fun t => t.readReg 0 2 == ⟨0x3C00, .f, 2⟩ && t.pc == 0x0102) = true := by
  decide

theorem test_mov_T36 :
    halts .invalidOperand
      ((startAt 0x0100 [0xCF, 0x0F]).writeReg 1 ⟨0x0200, .f, 0⟩) = true := by
  decide

theorem test_add_T38 :
    runs
      (((startAt 0x0100 [0x91, 0x08]).writeReg 1 ⟨0x7FFF, .s, 0⟩).writeReg 2 ⟨0x0001, .s, 0⟩)
      (fun t => t.readReg 0 2 == ⟨0x8000, .s, 0⟩ && t.readReg 0 28 == ⟨0x0001, .u, 0⟩ &&
        t.pc == 0x0102) = true := by
  decide

theorem test_sub_T47 :
    runs
      (((startAt 0x0100 [0x93, 0x08]).writeReg 1 ⟨0x8000, .s, 0⟩).writeReg 2 ⟨0x0001, .s, 0⟩)
      (fun t => t.readReg 0 2 == ⟨0x7FFF, .s, 0⟩ && t.readReg 0 28 == ⟨0x0001, .u, 0⟩ &&
        t.pc == 0x0102) = true := by
  decide

theorem test_mul_T52 :
    runs
      (((startAt 0x0100 [0x95, 0x08]).writeReg 1 ⟨0xFFFE, .s, 0⟩).writeReg 2 ⟨0x0003, .s, 0⟩)
      (fun t => t.readReg 0 2 == ⟨0xFFFA, .s, 0⟩ && t.readReg 0 28 == ⟨0xFFFF, .s, 0⟩ &&
        t.pc == 0x0102) = true := by
  decide

theorem test_mul_T56 :
    runs
      ((startAt 0x0100 [0xD5, 0x0F]).writeReg 1 ⟨0x0100, .u, 0⟩)
      (fun t => t.readReg 0 28 == ⟨0x0001, .u, 0⟩ && t.pc == 0x0102) = true := by
  decide

theorem test_div_T58 :
    runs
      (((startAt 0x0100 [0x97, 0x08]).writeReg 1 ⟨0x0005, .s, 0⟩).writeReg 2 ⟨0xFFEF, .s, 0⟩)
      (fun t => t.readReg 0 2 == ⟨0xFFFD, .s, 0⟩ && t.readReg 0 28 == ⟨0xFFFE, .s, 0⟩ &&
        t.pc == 0x0102) = true := by
  decide

theorem test_cmp_T63 :
    runs
      (((startAt 0x0100 [0x99, 0x08]).writeReg 1 ⟨0xFFFF, .s, 0⟩).writeReg 2 ⟨0x0001, .s, 0⟩)
      (fun t => t.readReg 0 28 == ⟨0xFFFF, .s, 0⟩ && t.pc == 0x0102) = true := by
  decide

theorem test_cmp_T64 :
    runs
      (((startAt 0x0100 [0x99, 0x08]).writeReg 1 ⟨0xFFFF, .u, 0⟩).writeReg 2 ⟨0x0001, .u, 0⟩)
      (fun t => t.readReg 0 28 == ⟨0x0001, .s, 0⟩ && t.pc == 0x0102) = true := by
  decide

theorem test_and_T67 :
    runs
      (((startAt 0x0100 [0x9B, 0x08]).writeReg 1 ⟨0x00FF, .u, 0⟩).writeReg 2 ⟨0x3C55, .f, 3⟩)
      (fun t => t.readReg 0 2 == ⟨0x0055, .f, 3⟩ && t.pc == 0x0102) = true := by
  decide

theorem test_or_T69 :
    runs
      (((startAt 0x0100 [0x9D, 0x08]).writeReg 1 ⟨0x0FF0, .u, 0⟩).writeReg 2 ⟨0x3C3C, .u, 0⟩)
      (fun t => t.readReg 0 2 == ⟨0x3FFC, .u, 0⟩ && t.pc == 0x0102) = true := by
  decide

theorem test_xor_T71 :
    runs
      ((startAt 0x0100 [0x9F, 0x10]).writeReg 2 ⟨0xBEEF, .s, 1⟩)
      (fun t => t.readReg 0 2 == ⟨0x0000, .s, 1⟩ && t.pc == 0x0102) = true := by
  decide

theorem test_addi_T75 :
    runs
      ((startAt 0x0100 [0xA1, 0xF8]).writeReg 2 ⟨0x8000, .s, 0⟩)
      (fun t => t.readReg 0 2 == ⟨0x7FFF, .s, 0⟩ && t.readReg 0 28 == ⟨0x0001, .u, 0⟩ &&
        t.pc == 0x0102) = true := by
  decide

theorem test_addi_T76 :
    runs
      (startAt 0x0100 [0xE1, 0x27])
      (fun t => t.readReg 0 28 == ⟨0x0000, .u, 0⟩ && t.pc == 0x0106) = true := by
  decide

theorem test_subi_T79 :
    runs
      ((startAt 0x0100 [0xA3, 0x00]).writeReg 2 ⟨0x8000, .s, 0⟩)
      (fun t => t.readReg 0 2 == ⟨0x8000, .s, 0⟩ && t.readReg 0 28 == ⟨0x0001, .u, 0⟩ &&
        t.pc == 0x0102) = true := by
  decide

theorem test_subi_T80 :
    runs
      ((startAt 0x0100 [0xA3, 0x50]).writeReg 2 ⟨0x0003, .u, 0⟩)
      (fun t => t.readReg 0 2 == ⟨0x0007, .u, 0⟩ && t.readReg 0 28 == ⟨0x0000, .u, 0⟩ &&
        t.pc == 0x0102) = true := by
  decide

theorem test_muli_T83 :
    runs
      ((startAt 0x0100 [0xA5, 0xF8]).writeReg 2 ⟨0x0002, .s, 0⟩)
      (fun t => t.readReg 0 2 == ⟨0xFFFE, .s, 0⟩ && t.readReg 0 28 == ⟨0xFFFF, .s, 0⟩ &&
        t.pc == 0x0102) = true := by
  decide

theorem test_muli_T84 :
    runs
      ((startAt 0x0100 [0xA5, 0xF8]).writeReg 2 ⟨0x0002, .u, 0⟩)
      (fun t => t.readReg 0 2 == ⟨0xFFFE, .u, 0⟩ && t.readReg 0 28 == ⟨0x0001, .u, 0⟩ &&
        t.pc == 0x0102) = true := by
  decide

theorem test_divi_T85 :
    runs
      ((startAt 0x0100 [0xA7, 0x38]).writeReg 2 ⟨0x0064, .u, 0⟩)
      (fun t => t.readReg 0 2 == ⟨0x000E, .u, 0⟩ && t.readReg 0 28 == ⟨0x0002, .u, 0⟩ &&
        t.pc == 0x0102) = true := by
  decide

theorem test_cmpi_T88 :
    runs
      ((startAt 0x0100 [0xA9, 0xF8]).writeReg 2 ⟨0x0000, .s, 0⟩)
      (fun t => t.readReg 0 28 == ⟨0xFFFF, .s, 0⟩ && t.pc == 0x0102) = true := by
  decide

theorem test_cmpi_T89 :
    runs
      ((startAt 0x0100 [0xA9, 0xF8]).writeReg 2 ⟨0x0000, .u, 0⟩)
      (fun t => t.readReg 0 28 == ⟨0x0001, .s, 0⟩ && t.pc == 0x0102) = true := by
  decide

theorem test_andi_T90 :
    runs
      ((startAt 0x0100 [0xAB, 0x78]).writeReg 2 ⟨0xABCD, .u, 0⟩)
      (fun t => t.readReg 0 2 == ⟨0x000D, .u, 0⟩ && t.pc == 0x0102) = true := by
  decide

theorem test_andi_T91 :
    runs
      ((startAt 0x0100 [0xAB, 0x80, 0xF0, 0xFF]).writeReg 2 ⟨0xABCD, .s, 0⟩)
      (fun t => t.readReg 0 2 == ⟨0xABC0, .s, 0⟩ && t.pc == 0x0104) = true := by
  decide

theorem test_ori_T92 :
    runs
      ((startAt 0x0100 [0xAD, 0x40]).writeReg 2 ⟨0x0001, .u, 0⟩)
      (fun t => t.readReg 0 2 == ⟨0x0009, .u, 0⟩ && t.pc == 0x0102) = true := by
  decide

theorem test_xori_T93 :
    runs
      ((startAt 0x0100 [0xAF, 0xF8]).writeReg 2 ⟨0x00FF, .u, 0⟩)
      (fun t => t.readReg 0 2 == ⟨0xFF00, .u, 0⟩ && t.pc == 0x0102) = true := by
  decide

theorem test_ldui_T97 :
    runs
      (startAt 0x0100 [0x71, 0x88])
      (fun t => t.readReg 0 1 == ⟨0xFFF1, .u, 0⟩ && t.pc == 0x0102) = true := by
  decide

theorem test_ldui_T100 :
    runs
      (startAt 0x0100 [0xF1, 0x87, 0x00, 0x04])
      (fun t => t.pc == 0x0400) = true := by
  decide

theorem test_ldsi_T103 :
    runs
      ((startAt 0x0100 [0x73, 0x80, 0x00, 0x80]).writeReg 1 ⟨0x1111, .f, 3⟩)
      (fun t => t.readReg 0 1 == ⟨0x8000, .s, 0⟩ && t.pc == 0x0104) = true := by
  decide

theorem test_ldfi_T104 :
    halts .invalidOperand
      (startAt 0x0100 [0xF5, 0x07]) = true := by
  decide

theorem test_ldf2i_T105 :
    halts .invalidOperand
      (startAt 0x0100 [0xF7, 0x07]) = true := by
  decide

theorem test_shftn_T107 :
    runs
      ((startAt 0x0100 [0xB9, 0xE0]).writeReg 2 ⟨0x8000, .s, 0⟩)
      (fun t => t.readReg 0 2 == ⟨0xF800, .s, 0⟩ && t.pc == 0x0102) = true := by
  decide

theorem test_shftn_T111 :
    runs
      ((startAt 0x0100 [0xB9, 0x80, 0x10, 0x00]).writeReg 2 ⟨0xFFFF, .u, 0⟩)
      (fun t => t.readReg 0 2 == ⟨0x0000, .u, 0⟩ && t.pc == 0x0104) = true := by
  decide

theorem test_extctn_T117 :
    runs
      ((startAt 0x0100 [0xBB, 0x80, 0x08, 0x01]).writeReg 2 ⟨0xABCD, .s, 0⟩)
      (fun t => t.readReg 0 2 == ⟨0xFFFB, .s, 0⟩ && t.pc == 0x0104) = true := by
  decide

theorem test_extctn_T122 :
    runs
      ((startAt 0x0100 [0xBB, 0xF8]).writeReg 2 ⟨0x8000, .s, 0⟩)
      (fun t => t.readReg 0 2 == ⟨0x0001, .s, 0⟩ && t.pc == 0x0102) = true := by
  decide

theorem test_ldtn_T127 :
    runs
      (poke (poke (poke (poke (startAt 0x0100 [0x7D, 0x81, 0x00, 0x30]) 0x3000 0x01) 0x3001 0x00) 0x3002 0xF7) 0x3003 0xFF)
      (fun t => t.readReg 0 5 == ⟨0x0001, .f2, 1⟩ && t.pc == 0x0104) = true := by
  decide

theorem test_ldtn_T129 :
    runs
      (poke (poke (poke (poke (startAt 0x0000 [0x7D, 0xF1]) 0x0000 0x7D) 0x0001 0xF1) 0xFFFE 0x11) 0xFFFF 0x22)
      (fun t => t.readReg 0 5 == ⟨0x2211, .s, 3⟩ && t.pc == 0x0002) = true := by
  decide

theorem test_sttn_T125 :
    runs
      ((startAt 0x0100 [0x7F, 0x81, 0x00, 0x30]).writeReg 5 ⟨0xBEEF, .s, 2⟩)
      (fun t => t.mem.read 0x3000 == 0xEF && t.mem.read 0x3001 == 0xBE &&
        t.mem.read 0x3002 == 0x09 && t.mem.read 0x3003 == 0x00 &&
        t.pc == 0x0104) = true := by
  decide

theorem test_sttn_T132 :
    halts .misalignedData
      ((startAt 0x0100 [0x7F, 0x81, 0x01, 0x30]).writeReg 5 ⟨0x0001, .u, 0⟩) = true := by
  decide

theorem test_ldu8_24_T133 :
    runs
      (poke (((startAt 0x0100 [0xC2, 0x20, 0x28, 0xA5]).writeReg 4 ⟨0x2000, .u, 0⟩).writeReg 5 ⟨0x0003, .u, 0⟩) 0x2003 0x9C)
      (fun t => t.readReg 0 3 == ⟨0x009C, .u, 0⟩ && t.pc == 0x0104) = true := by
  decide

theorem test_ldu8_24_T135 :
    halts .invalidOperand
      (poke (((startAt 0x0100 [0xC2, 0x27, 0x9C, 0xA5]).writeReg 4 ⟨0x2000, .u, 0⟩).writeReg 5 ⟨0x0003, .u, 0⟩) 0x2003 0x9C) = true := by
  decide

theorem test_ldu16_24_T138 :
    runs
      (poke (poke (((startAt 0x0100 [0xC6, 0x20, 0xF4, 0xA5]).writeReg 4 ⟨0x2000, .u, 0⟩).writeReg 5 ⟨0x0003, .u, 0⟩) 0x1FFE 0xFE) 0x1FFF 0xCA)
      (fun t => t.readReg 0 3 == ⟨0xCAFE, .u, 0⟩ && t.pc == 0x0104) = true := by
  decide

theorem test_ldu16_24_T141 :
    runs
      (poke (poke (((startAt 0x0100 [0xC6, 0x20, 0x28, 0xA5]).writeReg 4 ⟨0xFFFE, .u, 0⟩).writeReg 5 ⟨0x8002, .u, 0⟩) 0x0002 0xAA) 0x0003 0x55)
      (fun t => t.readReg 0 3 == ⟨0x55AA, .u, 0⟩ && t.pc == 0x0104) = true := by
  decide

theorem test_lds8_24_T144 :
    runs
      (poke (((startAt 0x0100 [0xD2, 0x20, 0x64, 0xF9]).writeReg 4 ⟨0x2000, .u, 0⟩).writeReg 5 ⟨0x0003, .u, 0⟩) 0x1F9C 0x7F)
      (fun t => t.readReg 0 3 == ⟨0x007F, .s, 0⟩ && t.pc == 0x0104) = true := by
  decide

theorem test_lds16_24_T145 :
    runs
      (poke (poke (((startAt 0x0100 [0xD6, 0x20, 0xF8, 0xA5]).writeReg 4 ⟨0x2000, .u, 0⟩).writeReg 5 ⟨0x0003, .u, 0⟩) 0x2000 0xFE) 0x2001 0xFF)
      (fun t => t.readReg 0 3 == ⟨0xFFFE, .s, 0⟩ && t.pc == 0x0104) = true := by
  decide

theorem test_lds16_24_T146 :
    runs
      (poke (poke (((startAt 0x0100 [0xD6, 0x20, 0x24, 0x12]).writeReg 4 ⟨0x2000, .u, 0⟩).writeReg 5 ⟨0x0003, .u, 0⟩) 0x2124 0x01) 0x2125 0x80)
      (fun t => t.readReg 0 3 == ⟨0x8001, .s, 0⟩ && t.pc == 0x0104) = true := by
  decide

theorem test_lea8_24_T148 :
    runs
      (startAt 0x0100 [0xC2, 0xF8, 0xB5, 0xA5])
      (fun t => t.readReg 0 3 == ⟨0x010A, .u, 0⟩ && t.pc == 0x0104) = true := by
  decide

theorem test_lea16_24_T150 :
    runs
      (((startAt 0x0100 [0xC6, 0x20, 0x05, 0x80]).writeReg 4 ⟨0x2000, .u, 0⟩).writeReg 5 ⟨0x0003, .u, 0⟩)
      (fun t => t.readReg 0 3 == ⟨0x1800, .u, 0⟩ && t.pc == 0x0104) = true := by
  decide

theorem test_lea16_24_T151 :
    runs
      (((startAt 0x0100 [0xC6, 0x27, 0x29, 0xA5]).writeReg 4 ⟨0x2000, .u, 0⟩).writeReg 5 ⟨0x0003, .u, 0⟩)
      (fun t => t.pc == 0x2006) = true := by
  decide

theorem test_st8_24_T152 :
    runs
      (((startAt 0x0100 [0xD2, 0x20, 0xBD, 0xA5]).writeReg 3 ⟨0x1234, .u, 0⟩).writeReg 4 ⟨0x2000, .u, 0⟩)
      (fun t => t.mem.read 0x2007 == 0x34 && t.pc == 0x0104) = true := by
  decide

theorem test_st16_24_T154 :
    runs
      (((startAt 0x0100 [0xD6, 0x20, 0x25, 0x12]).writeReg 3 ⟨0xFFFE, .s, 0⟩).writeReg 4 ⟨0x2000, .u, 0⟩)
      (fun t => t.mem.read 0x2124 == 0xFE && t.mem.read 0x2125 == 0xFF &&
        t.pc == 0x0104) = true := by
  decide

theorem test_st16_24_T156 :
    runs
      ((startAt 0x0100 [0xD6, 0x27, 0x85, 0xA5]).writeReg 4 ⟨0x2000, .u, 0⟩)
      (fun t => t.mem.read 0x2000 == 0x04 && t.mem.read 0x2001 == 0x01 &&
        t.pc == 0x0104) = true := by
  decide

theorem test_add_24_T169 :
    runs
      (((startAt 0x0100 [0xE2, 0x20, 0x29, 0xA5]).writeReg 4 ⟨0x0002, .u, 0⟩).writeReg 5 ⟨0xFFFF, .u, 0⟩)
      (fun t => t.readReg 0 3 == ⟨0x0001, .u, 0⟩ && t.readReg 0 28 == ⟨0x0001, .u, 0⟩ &&
        t.pc == 0x0104) = true := by
  decide

theorem test_add_24_T178 :
    halts .unimplementedInstruction
      (((startAt 0x0100 [0xE2, 0x20, 0x29, 0xA5]).writeReg 4 ⟨0x0001, .u, 0⟩).writeReg 5 ⟨0x0001, .s, 0⟩) = true := by
  decide

theorem test_sub_24_T170 :
    runs
      (((startAt 0x0100 [0xE6, 0x20, 0x29, 0xA5]).writeReg 4 ⟨0x0003, .u, 0⟩).writeReg 5 ⟨0x000A, .u, 0⟩)
      (fun t => t.readReg 0 3 == ⟨0x0007, .u, 0⟩ && t.readReg 0 28 == ⟨0x0000, .u, 0⟩ &&
        t.pc == 0x0104) = true := by
  decide

theorem test_sub_24_T171 :
    runs
      (((startAt 0x0100 [0xE6, 0x20, 0x29, 0xA5]).writeReg 4 ⟨0x000A, .u, 0⟩).writeReg 5 ⟨0x0003, .u, 0⟩)
      (fun t => t.readReg 0 3 == ⟨0xFFF9, .u, 0⟩ && t.readReg 0 28 == ⟨0x0001, .u, 0⟩ &&
        t.pc == 0x0104) = true := by
  decide

theorem test_mul_24_T172 :
    runs
      (((startAt 0x0100 [0xEA, 0x20, 0x29, 0xA5]).writeReg 4 ⟨0x5678, .u, 0⟩).writeReg 5 ⟨0x1234, .u, 0⟩)
      (fun t => t.readReg 0 3 == ⟨0x0060, .u, 0⟩ && t.readReg 0 28 == ⟨0x0626, .u, 0⟩ &&
        t.pc == 0x0104) = true := by
  decide

theorem test_div_24_T173 :
    runs
      (((startAt 0x0100 [0xEE, 0x20, 0x29, 0xA5]).writeReg 4 ⟨0x0011, .u, 0⟩).writeReg 5 ⟨0x0005, .u, 0⟩)
      (fun t => t.readReg 0 3 == ⟨0x0003, .u, 0⟩ && t.readReg 0 28 == ⟨0x0002, .u, 0⟩ &&
        t.pc == 0x0104) = true := by
  decide

theorem test_cmp_24_T174 :
    runs
      ((((startAt 0x0100 [0xF2, 0x20, 0x29, 0xA5]).writeReg 3 ⟨0x7777, .s, 0⟩).writeReg 4 ⟨0x0005, .u, 0⟩).writeReg 5 ⟨0x0003, .u, 0⟩)
      (fun t => t.readReg 0 28 == ⟨0xFFFF, .s, 0⟩ && t.pc == 0x0104) = true := by
  decide

theorem test_and_24_T175 :
    runs
      (((startAt 0x0100 [0xF6, 0x20, 0x29, 0xA5]).writeReg 4 ⟨0x3C3C, .u, 0⟩).writeReg 5 ⟨0x0FF0, .s, 0⟩)
      (fun t => t.readReg 0 3 == ⟨0x0C30, .u, 0⟩ && t.pc == 0x0104) = true := by
  decide

theorem test_or_24_T176 :
    runs
      (((startAt 0x0100 [0xFA, 0x20, 0x29, 0xA5]).writeReg 4 ⟨0x3C3C, .u, 0⟩).writeReg 5 ⟨0x0FF0, .u, 0⟩)
      (fun t => t.readReg 0 3 == ⟨0x3FFC, .u, 0⟩ && t.pc == 0x0104) = true := by
  decide

theorem test_xor_24_T177 :
    runs
      (((startAt 0x0100 [0xFE, 0x20, 0x29, 0xA5]).writeReg 4 ⟨0x3C3C, .u, 0⟩).writeReg 5 ⟨0x0FF0, .u, 0⟩)
      (fun t => t.readReg 0 3 == ⟨0x33CC, .u, 0⟩ && t.pc == 0x0104) = true := by
  decide

theorem test_addi_24_T179 :
    runs
      ((startAt 0x0100 [0xE2, 0x20, 0xBD, 0xA5]).writeReg 4 ⟨0x0010, .u, 0⟩)
      (fun t => t.readReg 0 3 == ⟨0x0017, .u, 0⟩ && t.readReg 0 28 == ⟨0x0000, .u, 0⟩ &&
        t.pc == 0x0104) = true := by
  decide

theorem test_addi_24_T180 :
    runs
      (startAt 0x0200 [0xE2, 0xFF, 0x25, 0x06])
      (fun t => t.readReg 0 28 == ⟨0x0000, .u, 0⟩ && t.pc == 0x0268) = true := by
  decide

theorem test_subi_24_T181 :
    runs
      ((startAt 0x0100 [0xE6, 0x20, 0x85, 0xA5]).writeReg 4 ⟨0x0005, .s, 0⟩)
      (fun t => t.readReg 0 3 == ⟨0xFFFB, .s, 0⟩ && t.readReg 0 28 == ⟨0x0000, .u, 0⟩ &&
        t.pc == 0x0104) = true := by
  decide

theorem test_muli_24_T182 :
    runs
      ((startAt 0x0100 [0xEA, 0x20, 0x25, 0x06]).writeReg 4 ⟨0x0400, .u, 0⟩)
      (fun t => t.readReg 0 3 == ⟨0x9000, .u, 0⟩ && t.readReg 0 28 == ⟨0x0001, .u, 0⟩ &&
        t.pc == 0x0104) = true := by
  decide

theorem test_divi_24_T183 :
    runs
      ((startAt 0x0100 [0xEE, 0x20, 0x9D, 0xA5]).writeReg 4 ⟨0x0064, .u, 0⟩)
      (fun t => t.readReg 0 3 == ⟨0x0021, .u, 0⟩ && t.readReg 0 28 == ⟨0x0001, .u, 0⟩ &&
        t.pc == 0x0104) = true := by
  decide

theorem test_cmpi_24_T184 :
    runs
      ((startAt 0x0100 [0xF2, 0x20, 0xFD, 0xA5]).writeReg 4 ⟨0xFFFF, .s, 0⟩)
      (fun t => t.readReg 0 28 == ⟨0x0000, .s, 0⟩ && t.pc == 0x0104) = true := by
  decide

theorem test_cmpi_24_T185 :
    runs
      ((startAt 0x0100 [0xF2, 0x20, 0xFD, 0xA5]).writeReg 4 ⟨0xFFFF, .u, 0⟩)
      (fun t => t.readReg 0 28 == ⟨0x0000, .s, 0⟩ && t.pc == 0x0104) = true := by
  decide

theorem test_andi_24_T186 :
    runs
      ((startAt 0x0100 [0xF6, 0x20, 0x7D, 0x0F]).writeReg 4 ⟨0xABCD, .u, 0⟩)
      (fun t => t.readReg 0 3 == ⟨0x00CD, .u, 0⟩ && t.pc == 0x0104) = true := by
  decide

theorem test_ori_24_T187 :
    runs
      ((startAt 0x0100 [0xFA, 0x20, 0xE5, 0xA5]).writeReg 4 ⟨0x0001, .u, 0⟩)
      (fun t => t.readReg 0 3 == ⟨0xFFFD, .u, 0⟩ && t.pc == 0x0104) = true := by
  decide

theorem test_xori_24_T188 :
    runs
      ((startAt 0x0100 [0xFE, 0x20, 0xFD, 0xA5]).writeReg 4 ⟨0x00FF, .u, 0⟩)
      (fun t => t.readReg 0 3 == ⟨0xFF00, .u, 0⟩ && t.pc == 0x0104) = true := by
  decide

theorem test_ldu8_32_T157 :
    runs
      (poke ((((startAt 0x0100 [0xC0, 0x20, 0x28, 0x30]).writeReg 4 ⟨0x2000, .u, 0⟩).writeReg 5 ⟨0x0003, .u, 0⟩).writeReg 6 ⟨0x0010, .u, 0⟩) 0x2013 0x9C)
      (fun t => t.readReg 0 3 == ⟨0x009C, .u, 0⟩ && t.pc == 0x0104) = true := by
  decide

theorem test_ldu8_32_T166 :
    halts .invalidOperand
      ((((startAt 0x0100 [0xC0, 0x20, 0x28, 0xF8]).writeReg 4 ⟨0x2000, .u, 0⟩).writeReg 5 ⟨0x0003, .u, 0⟩).writeReg 6 ⟨0x0010, .u, 0⟩) = true := by
  decide

theorem test_ldu16_32_T158 :
    runs
      (poke (poke ((((startAt 0x0100 [0xC4, 0x20, 0x28, 0x31]).writeReg 4 ⟨0x2000, .u, 0⟩).writeReg 5 ⟨0x0003, .u, 0⟩).writeReg 6 ⟨0x0010, .u, 0⟩) 0x201C 0xEF) 0x201D 0xBE)
      (fun t => t.readReg 0 3 == ⟨0xBEEF, .u, 0⟩ && t.pc == 0x0104) = true := by
  decide

theorem test_lds8_32_T160 :
    runs
      (poke ((((startAt 0x0100 [0xD0, 0x20, 0x2C, 0x9B]).writeReg 4 ⟨0x2000, .u, 0⟩).writeReg 5 ⟨0x0003, .u, 0⟩).writeReg 6 ⟨0x0010, .u, 0⟩) 0x200F 0x80)
      (fun t => t.readReg 0 3 == ⟨0xFF80, .s, 0⟩ && t.pc == 0x0104) = true := by
  decide

theorem test_lds16_32_T161 :
    runs
      (poke (poke ((((startAt 0x0100 [0xD4, 0x20, 0x2C, 0xF0]).writeReg 4 ⟨0x2000, .u, 0⟩).writeReg 5 ⟨0x0003, .u, 0⟩).writeReg 6 ⟨0x0010, .u, 0⟩) 0x2004 0x01) 0x2005 0x80)
      (fun t => t.readReg 0 3 == ⟨0x8001, .s, 0⟩ && t.pc == 0x0104) = true := by
  decide

theorem test_lea8_32_T162 :
    runs
      ((((startAt 0x0100 [0xC0, 0x20, 0x29, 0x32]).writeReg 4 ⟨0x2000, .u, 0⟩).writeReg 5 ⟨0x0003, .u, 0⟩).writeReg 6 ⟨0x0010, .u, 0⟩)
      (fun t => t.readReg 0 3 == ⟨0x2019, .u, 0⟩ && t.pc == 0x0104) = true := by
  decide

theorem test_lea16_32_T163 :
    runs
      ((((startAt 0x0100 [0xC4, 0x20, 0x2D, 0xBB]).writeReg 4 ⟨0x2000, .u, 0⟩).writeReg 5 ⟨0x0003, .u, 0⟩).writeReg 6 ⟨0x0010, .u, 0⟩)
      (fun t => t.readReg 0 3 == ⟨0x201F, .u, 0⟩ && t.pc == 0x0104) = true := by
  decide

theorem test_st8_32_T164 :
    runs
      (((((startAt 0x0100 [0xD0, 0x20, 0x29, 0x30]).writeReg 3 ⟨0x1234, .u, 0⟩).writeReg 4 ⟨0x2000, .u, 0⟩).writeReg 5 ⟨0x0003, .u, 0⟩).writeReg 6 ⟨0x0010, .u, 0⟩)
      (fun t => t.mem.read 0x2013 == 0x34 && t.pc == 0x0104) = true := by
  decide

theorem test_st16_32_T165 :
    runs
      (((startAt 0x0100 [0xD4, 0x20, 0xFD, 0xA0]).writeReg 3 ⟨0x1234, .u, 0⟩).writeReg 4 ⟨0x2000, .u, 0⟩)
      (fun t => t.mem.read 0x2004 == 0x34 && t.mem.read 0x2005 == 0x12 &&
        t.pc == 0x0104) = true := by
  decide

theorem test_unassigned_24_T190 :
    halts .unimplementedInstruction
      (((startAt 0x0100 [0xCA, 0x20, 0x28, 0xA5]).writeReg 4 ⟨0x2000, .u, 0⟩).writeReg 5 ⟨0x0003, .u, 0⟩) = true := by
  decide

theorem test_op6_32_T191 :
    halts .unimplementedInstruction
      (((startAt 0x0100 [0xC2, 0x20, 0x2A, 0xA5]).writeReg 4 ⟨0x2000, .u, 0⟩).writeReg 5 ⟨0x0003, .u, 0⟩) = true := by
  decide

theorem test_opC_100_T167 :
    halts .unimplementedInstruction
      ((((startAt 0x0100 [0xC0, 0x20, 0x28, 0x34]).writeReg 4 ⟨0x2000, .u, 0⟩).writeReg 5 ⟨0x0003, .u, 0⟩).writeReg 6 ⟨0x0010, .u, 0⟩) = true := by
  decide

theorem test_no_32_bit_add_T168 :
    halts .unimplementedInstruction
      ((((startAt 0x0100 [0xE0, 0x20, 0x29, 0x30]).writeReg 4 ⟨0x2000, .u, 0⟩).writeReg 5 ⟨0x0003, .u, 0⟩).writeReg 6 ⟨0x0010, .u, 0⟩) = true := by
  decide

theorem test_odd_pc_T192 :
    halts .misalignedFetch
      (startAt 0x0101 [0x71, 0x28]) = true := by
  decide

theorem test_reserved_imm_24_T142 :
    halts .invalidOperand
      (((startAt 0x0100 [0xC6, 0x20, 0xC4, 0xA5]).writeReg 4 ⟨0x2000, .u, 0⟩).writeReg 5 ⟨0x0003, .u, 0⟩) = true := by
  decide

theorem test_reserved_imm_32_T159 :
    halts .invalidOperand
      ((((startAt 0x0100 [0xC4, 0x20, 0x2C, 0x28]).writeReg 4 ⟨0x2000, .u, 0⟩).writeReg 5 ⟨0x0003, .u, 0⟩).writeReg 6 ⟨0x0010, .u, 0⟩) = true := by
  decide

theorem test_order_pc_before_types_O1 :
    halts .invalidOperand
      (startAt 0x0100 [0xD3, 0x0F]) = true := by
  decide

theorem test_order_imm_before_alignment_O2 :
    halts .invalidOperand
      ((startAt 0x0100 [0xC6, 0x27, 0xC4, 0xA5]).writeReg 4 ⟨0x2001, .u, 0⟩) = true := by
  decide

theorem test_order_opcode_before_imm_O5 :
    halts .unimplementedInstruction
      (startAt 0x0100 [0xCA, 0x20, 0xC4, 0xA5]) = true := by
  decide

/-! Float-typed results: the value is free, the type, the pc and the rest are the rules'. -/

theorem test_ldfi_X5 :
    runs
      (startAt 0x0100 [0x75, 0x80, 0x00, 0x3C])
      (fun t => (t.readReg 0 1).t == .f && t.pc == 0x0104) = true := by
  decide

theorem test_ldf2i_X6 :
    runs
      (startAt 0x0100 [0x77, 0x08])
      (fun t => (t.readReg 0 1).t == .f2 && t.pc == 0x0102) = true := by
  decide

theorem test_fld16_24_X9 :
    runs
      ((startAt 0x0100 [0xE6, 0x20, 0x94, 0xA5]).writeReg 4 ⟨0x2000, .u, 0⟩)
      (fun t => (t.readReg 0 3).t == .f && t.pc == 0x0104) = true := by
  decide

theorem test_fld16_24_X10 :
    halts .invalidOperand (startAt 0x0100 [0xE6, 0x27, 0x94, 0xA5]) = true := by
  decide

theorem test_fld8_24_type :
    runs
      ((startAt 0x0100 [0xE2, 0x20, 0x94, 0x00]).writeReg 4 ⟨0x2000, .u, 0⟩)
      (fun t => (t.readReg 0 3).t == .f && t.pc == 0x0104) = true := by
  decide

theorem test_f2ld8_24_type :
    runs
      ((startAt 0x0100 [0xF2, 0x20, 0x94, 0x00]).writeReg 4 ⟨0x2000, .u, 0⟩)
      (fun t => (t.readReg 0 3).t == .f2 && t.pc == 0x0104) = true := by
  decide

theorem test_f2ld16_24_type :
    runs
      ((startAt 0x0100 [0xF6, 0x20, 0x94, 0x00]).writeReg 4 ⟨0x2000, .u, 0⟩)
      (fun t => (t.readReg 0 3).t == .f2 && t.pc == 0x0104) = true := by
  decide

theorem test_fld8_32_type :
    runs
      ((startAt 0x0100 [0xE0, 0x20, 0xFC, 0x90]).writeReg 4 ⟨0x2000, .u, 0⟩)
      (fun t => (t.readReg 0 3).t == .f && t.pc == 0x0104) = true := by
  decide

theorem test_fld16_32_type :
    runs
      ((startAt 0x0100 [0xE4, 0x20, 0xFC, 0x90]).writeReg 4 ⟨0x2000, .u, 0⟩)
      (fun t => (t.readReg 0 3).t == .f && t.pc == 0x0104) = true := by
  decide

theorem test_f2ld8_32_type :
    runs
      ((startAt 0x0100 [0xF0, 0x20, 0xFC, 0x90]).writeReg 4 ⟨0x2000, .u, 0⟩)
      (fun t => (t.readReg 0 3).t == .f2 && t.pc == 0x0104) = true := by
  decide

theorem test_f2ld16_32_type :
    runs
      ((startAt 0x0100 [0xF4, 0x20, 0xFC, 0x90]).writeReg 4 ⟨0x2000, .u, 0⟩)
      (fun t => (t.readReg 0 3).t == .f2 && t.pc == 0x0104) = true := by
  decide

theorem test_inn_draws_twice_X14 :
    runs (startAt 0x0100 [0xC1, 0x28]) (fun t => t.inputDraws == 1 && (t.readReg 0 3).t == .u && t.pc == 0x0102) = true := by
  decide

theorem test_add_residue_X15 : step (startAt 0x0100 [0x11, 0x0F]) = .refused .residueWrittenTwice := by
  rfl

theorem test_div_by_zero_X2 :
    runs ((startAt 0x0100 [0x97, 0x08]).writeReg 2 ⟨0x0011, .u, 0⟩)
      (fun t => (t.readReg 0 2).t == .u && (t.readReg 0 28).t == .u && t.pc == 0x0102) = true := by
  decide

theorem test_halted_stays : step (State.reset.haltWith .misalignedData) = .next (State.reset.haltWith .misalignedData) := by
  rfl

theorem test_withFetchWord_runs_it :
    runs (State.reset.withFetchWord 16 0b00101_00001_11000_1)
      (fun t => t.readReg 0 1 == ⟨0x0005, .u, 0⟩ && t.pc == 0x0002) = true := by
  decide

/-- IFETCH_COHERENT = false: the fetch sees the launch's byte, not a later store (20_memory.md R53). -/
theorem test_incoherent_fetch :
    runs { poke (startAt 0x0100 [0x71, 0x28]) 0x0100 0xFF with
      params := { Config.defaultParams with ifetchCoherent := false } }
      (fun t => t.readReg 0 1 == ⟨0x0005, .u, 0⟩) = true := by
  decide

/-- An absent byte faults (20_memory.md R49). -/
theorem test_absent_byte :
    step { (startAt 0x0100 [0xC2, 0x20, 0x94, 0xA5]).writeReg 4 ⟨0x2000, .u, 0⟩ with
      params := { Config.defaultParams with absent := [⟨0x2002, 1⟩] } } = .fault (.absentByte 0x2002) := by
  rfl

/-! ## The parameters away from their defaults -/

/-- Maps in which ADD and SUB have each other's number, the 24-bit LDU16 has op6 = 33 and the 32-bit LDU16 with y = 2
has op9 = 320. -/
def otherMaps : OpMaps := ⟨[(8#5, 9#5)], [(1#6, 33#6)], [(65#9, 320#9)]⟩

/-- ADD's default word 0x0891 is SUB's by `otherMaps` (30_encoding.md R61, R72). -/
theorem test_otherMaps_16 : decodeBy otherMaps [0x91, 0x08] = .ok (.sub 2#5 1#5) := by rfl

/-- op6 = 33, opB = 10 and opA = 0001 (30_encoding.md R62, R73). -/
theorem test_otherMaps_24 :
    decodeBy otherMaps (windowBytes 0b00101_0_10_00100_00011_0001_10#32) = .ok (.ldu16_24 3#5 ⟨4#5, .index 5#5⟩) := by
  rfl

/-- op9 = 320, opC = 101, opB = 00 and opA = 0000 (30_encoding.md R63, R74). -/
theorem test_otherMaps_32 :
    encodeBy otherMaps (.ldu16_32 3#5 ⟨4#5, 5#5, 1#2, .reg 6#5⟩) =
      windowBytes 0b00110_101_00101_0_00_00100_00011_0000_00#32 := by rfl

/-- A default machine but for its parameters. -/
def withParams (p : Params) : State := State.resetWith p

/-- The machine runs by its own maps: 0x0891 subtracts (95_test_vectors.md's convention, "With another opcode map"). -/
theorem test_step_otherMaps :
    runs (((withParams { Config.defaultParams with opMaps := otherMaps }).launchBytes 0 [0x91, 0x08]).writeReg 1
        ⟨3, .u, 0⟩) (fun t => t.readReg 0 2 == ⟨3, .u, 0⟩ && t.readReg 0 resReg == ⟨0, .u, 0⟩) = true := by
  decide

/-- `withFetchWord` places the table's instruction under any maps: opcode_table.json's ADD adds. -/
theorem test_withFetchWord_otherMaps :
    step ((withParams { Config.defaultParams with opMaps := otherMaps }).withFetchWord 16 0x0891) =
      exec (.add 2#5 1#5) ((withParams { Config.defaultParams with opMaps := otherMaps }).withFetchWord 16 0x0891) := by
  rfl

/-- RESET_PC (70_reset_and_hazards.md R320). -/
theorem test_resetPc : (withParams { Config.defaultParams with resetPc := 0x8000 }).pc = 0x8000#16 := by rfl

/-- TYCODE with U = 01 and S = 00: STTN of an unsigned register stores 01 (10_state.md R13, 44_typed_ldst16.md R141). -/
theorem test_tyCode : tagHalf { Config.defaultParams with tyCode := [(0#2, 1#2)] } ⟨7, .u, 2#2⟩ = 0b1001#16 := by decide

/-- IREG_MAP with ISTATE as number 1: N = -1 names place 4 (10_state.md R24). -/
theorem test_iregMap :
    ((withParams { Config.defaultParams with iregMap := [(0, 4)] }).writeIreg 0 0x0081#16).iregs[4] = 0x0081#16 := by
  decide

/-- Another CmpResult (42_alu16.md R112): the residue is what it gives, a free value. -/
theorem test_cmpResult_other :
    exec (.cmp 2#5 1#5) (withParams { Config.defaultParams with cmpResult := .other }) =
      .next (((withParams { Config.defaultParams with cmpResult := .other }).writeReg resReg
        (clearE (Config.cmpResult .u 0#16 0#16))).setPc 2#16) := by rfl

/-- MixedArith is not shown the exponent bits of integer operands (10_state.md R14). -/
theorem test_mixedResult_ignores_e :
    mixedResult .add ⟨1, .u, 3⟩ ⟨2, .s, 1⟩ = mixedResult .add ⟨1, .u, 0⟩ ⟨2, .s, 0⟩ := by rfl

/-- An integer cell loses its exponent bits, a float cell keeps them (10_state.md R14). -/
theorem test_clearE : clearE ⟨1, .s, 3⟩ = ⟨1, .s, 0⟩ ∧ clearE ⟨1, .f2, 3⟩ = ⟨1, .f2, 3⟩ := by decide

/-! ## For every statement with hypotheses, something that meets them -/

/-- The machine the witnesses start from: LDUI r1, 5 at 0x0100, and the pc there. -/
def begin5 : State := startAt 0x0100 [0x71, 0x28]

/-- What `begin5` steps to. -/
def begin5Next : State := (begin5.writeReg 1 ⟨5, .u, 0⟩).setPc 0x0102

theorem begin5_steps : step begin5 = .next begin5Next := by rfl

/-- A machine whose next step halts: an unassigned 24-bit word at 0x0100. -/
def doomed : State := startAt 0x0100 [0xCA, 0x20, 0x28]

theorem witness_DecodeEncodeRoundTrip_short : (Instr.addi 31#5 (.short 0b10001#5)).WellFormed := by decide
theorem witness_DecodeEncodeRoundTrip_long : (Instr.xori_24 31#5 0#5 (.long 0x800#12)).WellFormed := by decide
theorem witness_DecodeEncodeRoundTrip_32 : (Instr.lea8_32 31#5 ⟨31#5, 31#5, 3#2, .imm 0b1100#4⟩).WellFormed := by decide

theorem witness_AcceptedWindowIsItsEncoding :
    decodeWindowBy Config.defaultParams.opMaps 0xA52820C6#32 = .ok (.ldu16_24 3#5 ⟨4#5, .index 5#5⟩) := by rfl

theorem witness_ShortAndLongImmediates_escape :
    formatOf 0x123480F1#32 = .b16 ∧ decodeWindowBy otherMaps 0x123480F1#32 = .ok (.ldui 3#5 (.long 0x1234#16)) ∧
      takenN16 (.ldui 3#5 (.long 0x1234#16)) = some (.long 0x1234#16) ∧ fieldS 0x123480F1#32 = 0b10000#5 :=
  ⟨rfl, rfl, rfl, rfl⟩
theorem witness_ShortAndLongImmediates_short :
    formatOf 0x00008871#32 = .b16 ∧ decodeWindowBy otherMaps 0x00008871#32 = .ok (.ldui 1#5 (.short 0b10001#5)) ∧
      takenN16 (.ldui 1#5 (.short 0b10001#5)) = some (.short 0b10001#5) ∧ fieldS 0x00008871#32 ≠ 0b10000#5 :=
  ⟨rfl, rfl, rfl, by decide⟩
theorem witness_ShortAndLongImmediates_range :
    (-15 ≤ (0xFFF1#16).toInt ∧ (0xFFF1#16).toInt ≤ 15) ∧ -15 ≤ (0x000F#16).toInt ∧ (0x000F#16).toInt ≤ 15 := by decide

theorem witness_OpcodeFixesWhetherTopIsNOrS : formatOf 0x0000808F#32 = .b16 := by rfl

theorem witness_OpcodeMapsMoveOnlyOpcodes :
    formatOf 0x00000891#32 = .b16 ∧ formatOf 0x002820C6#32 = .b24 ∧ formatOf 0x312820C4#32 = .b32 := by decide

theorem witness_LengthCodeTellsTheSize :
    decodeWindowBy otherMaps 0x00000891#32 = .ok (.sub 2#5 1#5) ∧
      decodeWindowBy otherMaps 0x002920E2#32 = .ok (.add_24 3#5 4#5 5#5) ∧
        decodeWindowBy otherMaps 0x302820C0#32 = .ok (.ldu8_32 3#5 ⟨4#5, 5#5, 0#2, .reg 6#5⟩) := ⟨rfl, rfl, rfl⟩

theorem witness_UnassignedOpcodesAreRejected_24 :
    (formatOf 0x002820CA#32 = .b24 ∧ fieldOp6 0x002820CA#32 = renumber otherMaps.op24 2#6) ∧
      (formatOf 0x002A20C2#32 = .b24 ∧ fieldOp6 0x002A20C2#32 = renumber otherMaps.op24 32#6) ∧
        (formatOf 0x002B20FE#32 = .b24 ∧ fieldOp6 0x002B20FE#32 = renumber otherMaps.op24 63#6) := by decide
theorem witness_UnassignedOpcodesAreRejected_32 :
    (formatOf 0x302920E0#32 = .b32 ∧ fieldOp9 0x302920E0#32 = renumber otherMaps.op32 (0#3 ++ 24#6)) ∧
      (formatOf 0x342820C0#32 = .b32 ∧ fieldOp9 0x342820C0#32 = renumber otherMaps.op32 (4#3 ++ 0#6) ∧
        (4#3).msb = true) := by decide

theorem witness_ReservedImmediateCodesAreRejected_24 :
    formatOf 0x00C420C2#32 = .b24 ∧ fieldOp6 0x00C420C2#32 = renumber otherMaps.op24 0#6 ∧
      0#6 ∉ [2#6, 3#6, 6#6, 7#6, 10#6, 11#6, 14#6, 15#6, 18#6, 19#6, 22#6, 23#6] ∧ (0#6).toNat < 32 ∧
        fieldIe 0x00C420C2#32 = true ∧ (fieldR 0x00C420C2#32).extractLsb' 2 3 = 0b110#3 := by decide
theorem witness_ReservedImmediateCodesAreRejected_24_last :
    formatOf 0x00DD20FE#32 = .b24 ∧ fieldOp6 0x00DD20FE#32 = renumber otherMaps.op24 31#6 ∧
      31#6 ∉ [2#6, 3#6, 6#6, 7#6, 10#6, 11#6, 14#6, 15#6, 18#6, 19#6, 22#6, 23#6] ∧ (31#6).toNat < 32 ∧
        fieldIe 0x00DD20FE#32 = true ∧ (fieldR 0x00DD20FE#32).extractLsb' 2 3 = 0b110#3 := by decide
theorem witness_ReservedImmediateCodesAreRejected_32 :
    formatOf 0x282C20C0#32 = .b32 ∧ fieldOp9 0x282C20C0#32 = renumber otherMaps.op32 (0#3 ++ 0#6) ∧
      0#6 ∈ [0#6, 1#6, 4#6, 5#6, 8#6, 9#6, 12#6, 13#6, 16#6, 17#6, 20#6, 21#6] ∧ (0#3).msb = false ∧
        fieldIe 0x282C20C0#32 = true ∧ (fieldT 0x282C20C0#32).msb = false := by decide
theorem witness_ReservedImmediateCodesAreRejected_32_110 :
    formatOf 0xDB2D20D4#32 = .b32 ∧ fieldOp9 0xDB2D20D4#32 = renumber otherMaps.op32 (3#3 ++ 21#6) ∧
      21#6 ∈ [0#6, 1#6, 4#6, 5#6, 8#6, 9#6, 12#6, 13#6, 16#6, 17#6, 20#6, 21#6] ∧ (3#3).msb = false ∧
        fieldIe 0xDB2D20D4#32 = true ∧ (fieldT 0xDB2D20D4#32).extractLsb' 2 3 = 0b110#3 := by decide

theorem witness_StepRunsTheDecodedInstruction :
    begin5.halted = false ∧ begin5.fetch = .ok [0x71#8, 0x28#8] ∧
      decodeBy begin5.params.opMaps [0x71#8, 0x28#8] = .ok (.ldui 1#5 (.short 5#5)) ∧ (Instr.ldui 1#5 (.short 5#5)).WellFormed :=
  ⟨rfl, rfl, rfl, rfl⟩

/-- A four-byte instruction that wraps at the top of memory. -/
def wrapping : State := startAt 0xFFFE [0x71, 0x80, 0x34, 0x12]

theorem witness_EncodedBytesAtPcAreExecuted :
    wrapping.halted = false ∧ wrapping.pc.getLsbD 0 = false ∧ (Instr.ldui 1#5 (.long 0x1234#16)).WellFormed ∧
      (∀ k, k < (Instr.ldui 1#5 (.long 0x1234#16)).ilen →
        Params.present wrapping.params (wrapping.pc + BitVec.ofNat 16 k) = true) ∧
        ∀ k, k < (Instr.ldui 1#5 (.long 0x1234#16)).ilen →
          wrapping.fetchMem.read (wrapping.pc + BitVec.ofNat 16 k) =
            (encodeBy wrapping.params.opMaps (.ldui 1#5 (.long 0x1234#16))).getD k 0#8 := by
  decide

theorem witness_NoInstructionHalts_unassigned :
    doomed.halted = false ∧ doomed.fetch = .ok [0xCA#8, 0x20#8, 0x28#8] ∧
      decodeBy doomed.params.opMaps [0xCA#8, 0x20#8, 0x28#8] = .error .unassigned := ⟨rfl, rfl, rfl⟩
theorem witness_NoInstructionHalts_reserved :
    (startAt 0x0100 [0xC6, 0x20, 0xC4]).fetch = .ok [0xC6#8, 0x20#8, 0xC4#8] ∧
      decodeBy Config.defaultParams.opMaps [0xC6#8, 0x20#8, 0xC4#8] = .error .reservedImmediate := ⟨rfl, rfl⟩

theorem witness_OddPcHalts :
    (State.reset.setPc 0xFFFF#16).halted = false ∧ (State.reset.setPc 0xFFFF#16).pc.getLsbD 0 = true := ⟨rfl, rfl⟩

theorem witness_HaltedMachineNeverChanges : (State.reset.haltWith .misalignedData).halted = true := rfl

theorem witness_HaltIsPrecise :
    doomed.halted = false ∧ step doomed = .next (doomed.haltWith .unimplementedInstruction) ∧
      (doomed.haltWith .unimplementedInstruction).halted = true := ⟨rfl, rfl, rfl⟩

theorem witness_EveryStepKeepsTheInvariant : begin5.Inv ∧ step begin5 = .next begin5Next :=
  ⟨⟨rfl, rfl, rfl, by decide, rfl⟩, rfl⟩

theorem witness_ResetLeavesTheHalt : (doomed.haltWith .unimplementedInstruction).Inv :=
  ⟨rfl, rfl, rfl, by decide, rfl⟩

theorem witness_ResetStateIsGood : ({ Config.defaultParams with resetPc := 0xFFFE } : Params).resetPc.getLsbD 0 = false :=
  rfl

theorem witness_NoFaultWhereEveryByteExists : State.reset.params.absent = [] := rfl

theorem witness_OnlyDoubleResidueWritesAreRefused :
    exec (.add resReg 1#5) State.reset = .refused .residueWrittenTwice := rfl

theorem witness_ResidueDestinationIsRefused :
    (TypesAllow State.reset (operand (.add resReg 1#5) State.reset 1#5) (operand (.add resReg 1#5) State.reset resReg) ∧
      State.reset.params.hasDiv = true) ∧
      TypesAllow State.reset (operand (.add_24 resReg 2#5 31#5) State.reset 31#5)
        (operand (.add_24 resReg 2#5 31#5) State.reset 2#5) ∧
        TypesAllow State.reset
          (imm24Cell (.long 0x7FF#12)
            (const24Ty (.addi_24 resReg 2#5 (.long 0x7FF#12)) State.reset resReg 2#5))
          (operand (.addi_24 resReg 2#5 (.long 0x7FF#12)) State.reset 2#5) :=
  ⟨⟨.inl rfl, rfl⟩, .inl rfl, .inl rfl⟩

theorem witness_OnlyDAndResidueAreWritten :
    exec (.ldui 1#5 (.short 5#5)) begin5 = .next begin5Next ∧ destOf (.ldui 1#5 (.short 5#5)) ≠ some resReg ∧
      (writesResidue (.ldui 1#5 (.short 5#5)) = true → resReg ≠ resReg) := ⟨rfl, by decide, by decide⟩

theorem witness_OnlyStoresChangeMemory :
    exec (.ldui 1#5 (.short 5#5)) begin5 = .next begin5Next ∧ storesMemory (.ldui 1#5 (.short 5#5)) = false :=
  ⟨rfl, rfl⟩

theorem witness_OtherInstructionsIgnoreMemory :
    loadsMemory (.ldui 1#5 (.short 5#5)) = false ∧ storesMemory (.ldui 1#5 (.short 5#5)) = false ∧
      exec (.ldui 1#5 (.short 5#5)) begin5 = .next begin5Next := ⟨rfl, rfl, rfl⟩

theorem witness_OnlyInnAndOutnReachPorts :
    exec (.ldui 1#5 (.short 5#5)) begin5 = .next begin5Next ∧ reachesPorts (.ldui 1#5 (.short 5#5)) = false :=
  ⟨rfl, rfl⟩

theorem witness_IntegerExponentBits_mixed :
    ((Cell.mk 1 .u 3).t = (Cell.mk 2 .s 1).t → (Cell.mk 1 .u 3).t = .u ∨ (Cell.mk 1 .u 3).t = .s) ∧
      arithResult { Config.defaultParams with mixedTypes := true } .add ⟨1, .u, 3⟩ ⟨2, .s, 1⟩ =
        .ok (mixedResult .add ⟨1, .u, 3⟩ ⟨2, .s, 1⟩) := ⟨fun _ => .inl rfl, rfl⟩
theorem witness_IntegerExponentBits_compare :
    arithResult { Config.defaultParams with cmpResult := .other } .cmp ⟨1, .s, 3⟩ ⟨2, .s, 1⟩ =
      .ok (default, some (clearE (Config.cmpResult .s 1#16 2#16))) := rfl

theorem witness_OutputsAreRecordedInOrder :
    step (startAt 0x0100 [0xC3, 0x00]) =
      .next (((startAt 0x0100 [0xC3, 0x00]).portOut 0 0#16).setPc 0x0102) := rfl

theorem witness_ParametersAndLaunchBytesAreFixed : step begin5 = .next begin5Next := rfl

theorem witness_PcAdvancesUnlessWritten :
    exec (.ldui 1#5 (.short 5#5)) begin5 = .next begin5Next ∧ begin5.halted = false ∧ begin5Next.halted = false ∧
      isBranch (.ldui 1#5 (.short 5#5)) = false ∧ destOf (.ldui 1#5 (.short 5#5)) ≠ some pcReg :=
  ⟨rfl, rfl, rfl, rfl, by decide⟩

theorem witness_InvalidUsesOfThePcHalt_dest : noPcDestOf (.sub_24 pcReg 1#5 2#5) = some pcReg := rfl
theorem witness_InvalidUsesOfThePcHalt_mov :
    (operand (.mov pcReg 1#5) (State.reset.writeReg 1 ⟨0x0200, .f2, 0⟩) 1#5).t = .f2 := rfl
theorem witness_InvalidUsesOfThePcHalt_offset :
    addr32Of (.st8_32 1#5 ⟨2#5, 3#5, 0#2, .reg pcReg⟩) = some ⟨2#5, 3#5, 0#2, .reg pcReg⟩ := rfl

/-- Registers 1 of type S, 2 of type F. -/
def mixed : State := (State.reset.writeReg 1 ⟨0x8000, .s, 0⟩).writeReg 2 ⟨0x3C00, .f, 2⟩

theorem witness_MixedTypesHalt_16 :
    mixed.params.mixedTypes = false ∧ (operand (.add 2#5 1#5) mixed 1#5).t ≠ (operand (.add 2#5 1#5) mixed 2#5).t ∧
      (2#5 : Reg) ≠ pcReg := by decide
theorem witness_MixedTypesHalt_24 :
    mixed.params.mixedTypes = false ∧
      (operand (.add_24 3#5 2#5 31#5) mixed 31#5).t ≠ (operand (.add_24 3#5 2#5 31#5) mixed 2#5).t ∧
        (3#5 : Reg) ≠ pcReg := by decide
/-- Only IMM24_TYPE_FROM = D lets a constant differ in type. -/
theorem witness_MixedTypesHalt_24_imm :
    ({ mixed with params := { Config.defaultParams with imm24TypeFrom := .d } } : State).params.mixedTypes = false ∧
      const24Ty (.addi_24 2#5 1#5 (.short 1#4))
          { mixed with params := { Config.defaultParams with imm24TypeFrom := .d } } 2#5 1#5 ≠
        (operand (.addi_24 2#5 1#5 (.short 1#4))
          { mixed with params := { Config.defaultParams with imm24TypeFrom := .d } } 1#5).t ∧ (2#5 : Reg) ≠ pcReg := by
  decide

theorem witness_DivisionWithoutDividerHalts :
    ({ State.reset with params := { Config.defaultParams with hasDiv := false } } : State).params.hasDiv = false := rfl

theorem witness_OddDataAddressHalts_io :
    State.reset.params.misalignedData = .halt ∧ 15 < (n16Of16 (.long 17#16)).toInt ∧
      (n16Of16 (.long 17#16)).getLsbD 0 = true ∧ (n16Of16 (.long 0xFFEF#16)).toInt < -15 ∧
        (n16Of16 (.long 0xFFEF#16)).getLsbD 0 = true ∧ (1#5 : Reg) ≠ pcReg := by decide
theorem witness_OddDataAddressHalts_typed : (n16Of16 (.short 0b11111#5)).getLsbD 0 = true := rfl
theorem witness_OddDataAddressHalts_24 :
    (ea24 State.reset (npcOf (.ldu16_24 3#5 ⟨4#5, .offset (.short 0b1111#4)⟩) State.reset) 2#16
      ⟨4#5, .offset (.short 0b1111#4)⟩).getLsbD 0 = true := rfl
theorem witness_OddDataAddressHalts_32 :
    ea32 State.reset (npcOf (.ldu16_32 3#5 ⟨4#5, 5#5, 3#2, .imm 0b1111#4⟩) State.reset) 2#16
      ⟨4#5, 5#5, 3#2, .imm 0b1111#4⟩ = .ok 0xFFFF#16 ∧ (0xFFFF#16).getLsbD 0 = true := ⟨rfl, rfl⟩

theorem witness_EffectiveAddresses : (30#5 : Reg) ≠ pcReg := by decide

theorem witness_InnResult_port :
    (1#5 : Reg) ≠ pcReg ∧ (n16Of16 (.short 0#5)).toInt = (0 : Fin 16).val ∧
      (n16Of16 (.long 15#16)).toInt = (15 : Fin 16).val := by decide
theorem witness_InnResult_ireg :
    (n16Of16 (.short 0b11111#5)).toInt = -(((0 : Fin 15).val : Int) + 1) ∧
      (n16Of16 (.short 0b10001#5)).toInt = -(((14 : Fin 15).val : Int) + 1) := by decide
theorem witness_InnResult_memory :
    (15 < (n16Of16 (.long 16#16)).toInt ∧ Accessible16 State.reset (n16Of16 (.long 16#16))) ∧
      (n16Of16 (.long 0xFFF0#16)).toInt < -15 ∧ Accessible16 State.reset (n16Of16 (.long 0xFFF0#16)) :=
  ⟨⟨by decide, .inl rfl, rfl, rfl⟩, by decide, .inl rfl, rfl, rfl⟩

theorem witness_OutnResult_port :
    (n16Of16 (.long 0#16)).toInt = (0 : Fin 16).val ∧ (n16Of16 (.short 15#5)).toInt = (15 : Fin 16).val := by decide
theorem witness_OutnResult_ireg :
    (n16Of16 (.long 0xFFFF#16)).toInt = -(((0 : Fin 15).val : Int) + 1) ∧
      (n16Of16 (.long 0xFFF1#16)).toInt = -(((14 : Fin 15).val : Int) + 1) := by decide
theorem witness_OutnResult_memory :
    (n16Of16 (.long 0x8000#16)).toInt < -15 ∧ Accessible16 State.reset (n16Of16 (.long 0x8000#16)) :=
  ⟨by decide, .inl rfl, rfl, rfl⟩

theorem witness_ZeroBranchesResult_zero :
    (True ↔ if (operand (.brzn 1#5 (.short 4#5)) State.reset 1#5).t = .u ∨
        (operand (.brzn 1#5 (.short 4#5)) State.reset 1#5).t = .s
      then (operand (.brzn 1#5 (.short 4#5)) State.reset 1#5).v = 0#16
      else (Config.floatTest (operand (.brzn 1#5 (.short 4#5)) State.reset 1#5)).1 = true) :=
  iff_of_true trivial rfl
theorem witness_ZeroBranchesResult_nonzero :
    (False ↔ if (operand (.brzn 1#5 (.short 4#5)) mixed 1#5).t = .u ∨ (operand (.brzn 1#5 (.short 4#5)) mixed 1#5).t = .s
      then (operand (.brzn 1#5 (.short 4#5)) mixed 1#5).v = 0#16
      else (Config.floatTest (operand (.brzn 1#5 (.short 4#5)) mixed 1#5)).1 = true) :=
  iff_of_false id (by decide)

theorem witness_SignBranchesResult_negative :
    (True ↔ ((operand (.brpn 1#5 (.short 4#5)) mixed 1#5).t = .s ∧
        (operand (.brpn 1#5 (.short 4#5)) mixed 1#5).v.toInt < 0) ∨
      (((operand (.brpn 1#5 (.short 4#5)) mixed 1#5).t = .f ∨ (operand (.brpn 1#5 (.short 4#5)) mixed 1#5).t = .f2) ∧
        (Config.floatTest (operand (.brpn 1#5 (.short 4#5)) mixed 1#5)).2 = true)) :=
  iff_of_true trivial (.inl (by decide))
theorem witness_SignBranchesResult_zero :
    (False ↔ ((operand (.brpn 1#5 (.short 4#5)) State.reset 1#5).t = .s ∧
        (operand (.brpn 1#5 (.short 4#5)) State.reset 1#5).v.toInt < 0) ∨
      (((operand (.brpn 1#5 (.short 4#5)) State.reset 1#5).t = .f ∨
        (operand (.brpn 1#5 (.short 4#5)) State.reset 1#5).t = .f2) ∧
          (Config.floatTest (operand (.brpn 1#5 (.short 4#5)) State.reset 1#5)).2 = true)) :=
  iff_of_false id (by simp [operand, State.readReg, State.reset, State.resetWith, resetCell])

theorem witness_MovResult :
    (30#5 : Reg) ≠ pcReg ∧ (operand (.mov pcReg 1#5) State.reset 1#5).t = .u ∧
      (operand (.mov pcReg 1#5) mixed 1#5).t = .s := ⟨by decide, rfl, rfl⟩

/-- Registers 1 and 2 of type S. -/
def signed : State := (State.reset.writeReg 1 ⟨0x8000, .s, 0⟩).writeReg 2 ⟨0xFFFF, .s, 0⟩

theorem witness_AddResult :
    TypesAllow signed (operand (.add 2#5 1#5) signed 1#5) (operand (.add 2#5 1#5) signed 2#5) ∧
      (2#5 : Reg) ≠ resReg :=
  ⟨.inl rfl, by decide⟩
theorem witness_AddResult_imm :
    TypesAllow signed (imm16Cell (.short 0b11111#5) (operand (.addi pcReg (.short 0b11111#5)) signed pcReg).t)
        (operand (.addi pcReg (.short 0b11111#5)) signed pcReg) ∧
      (pcReg : Reg) ≠ resReg :=
  ⟨.inl rfl, by decide⟩
theorem witness_AddResult_24 :
    TypesAllow signed (operand (.add_24 3#5 2#5 1#5) signed 1#5) (operand (.add_24 3#5 2#5 1#5) signed 2#5) ∧
      (3#5 : Reg) ≠ resReg :=
  ⟨.inl rfl, by decide⟩
theorem witness_AddResult_24_imm :
    TypesAllow signed (imm24Cell (.long 0x800#12) (const24Ty (.addi_24 3#5 2#5 (.long 0x800#12)) signed 3#5 2#5))
        (operand (.addi_24 3#5 2#5 (.long 0x800#12)) signed 2#5) ∧
      (3#5 : Reg) ≠ resReg :=
  ⟨.inl rfl, by decide⟩
theorem witness_SubResult :
    (2#5 : Reg) ≠ pcReg ∧
      TypesAllow signed (operand (.sub 2#5 1#5) signed 1#5) (operand (.sub 2#5 1#5) signed 2#5) ∧
      (2#5 : Reg) ≠ resReg :=
  ⟨by decide, .inl rfl, by decide⟩
theorem witness_SubResult_imm :
    (30#5 : Reg) ≠ pcReg ∧
      TypesAllow signed (imm16Cell (.short 0b11111#5) (operand (.subi 30#5 (.short 0b11111#5)) signed 30#5).t)
        (operand (.subi 30#5 (.short 0b11111#5)) signed 30#5) ∧
      (30#5 : Reg) ≠ resReg :=
  ⟨by decide, .inl rfl, by decide⟩
theorem witness_SubResult_24 :
    (3#5 : Reg) ≠ pcReg ∧
      TypesAllow signed (operand (.sub_24 3#5 2#5 1#5) signed 1#5) (operand (.sub_24 3#5 2#5 1#5) signed 2#5) ∧
      (3#5 : Reg) ≠ resReg :=
  ⟨by decide, .inl rfl, by decide⟩
theorem witness_SubResult_24_imm :
    (3#5 : Reg) ≠ pcReg ∧
      TypesAllow signed (imm24Cell (.long 0x800#12) (const24Ty (.subi_24 3#5 2#5 (.long 0x800#12)) signed 3#5 2#5))
        (operand (.subi_24 3#5 2#5 (.long 0x800#12)) signed 2#5) ∧
      (3#5 : Reg) ≠ resReg :=
  ⟨by decide, .inl rfl, by decide⟩
theorem witness_MulResult :
    TypesAllow signed (operand (.mul 2#5 1#5) signed 1#5) (operand (.mul 2#5 1#5) signed 2#5) ∧
      (2#5 : Reg) ≠ resReg :=
  ⟨.inl rfl, by decide⟩
theorem witness_MulResult_imm :
    TypesAllow signed (imm16Cell (.short 0b11111#5) (operand (.muli pcReg (.short 0b11111#5)) signed pcReg).t)
        (operand (.muli pcReg (.short 0b11111#5)) signed pcReg) ∧
      (pcReg : Reg) ≠ resReg :=
  ⟨.inl rfl, by decide⟩
theorem witness_MulResult_24 :
    TypesAllow signed (operand (.mul_24 3#5 2#5 1#5) signed 1#5) (operand (.mul_24 3#5 2#5 1#5) signed 2#5) ∧
      (3#5 : Reg) ≠ resReg :=
  ⟨.inl rfl, by decide⟩
theorem witness_MulResult_24_imm :
    TypesAllow signed (imm24Cell (.long 0x800#12) (const24Ty (.muli_24 3#5 2#5 (.long 0x800#12)) signed 3#5 2#5))
        (operand (.muli_24 3#5 2#5 (.long 0x800#12)) signed 2#5) ∧
      (3#5 : Reg) ≠ resReg :=
  ⟨.inl rfl, by decide⟩
theorem witness_DivResult :
    signed.params.hasDiv = true ∧
      TypesAllow signed (operand (.div 2#5 1#5) signed 1#5) (operand (.div 2#5 1#5) signed 2#5) ∧
      (2#5 : Reg) ≠ resReg :=
  ⟨rfl, .inl rfl, by decide⟩
theorem witness_DivResult_imm :
    signed.params.hasDiv = true ∧
      TypesAllow signed (imm16Cell (.short 0b11111#5) (operand (.divi pcReg (.short 0b11111#5)) signed pcReg).t)
        (operand (.divi pcReg (.short 0b11111#5)) signed pcReg) ∧
      (pcReg : Reg) ≠ resReg :=
  ⟨rfl, .inl rfl, by decide⟩
theorem witness_DivResult_24 :
    signed.params.hasDiv = true ∧
      TypesAllow signed (operand (.div_24 3#5 2#5 1#5) signed 1#5) (operand (.div_24 3#5 2#5 1#5) signed 2#5) ∧
      (3#5 : Reg) ≠ resReg :=
  ⟨rfl, .inl rfl, by decide⟩
theorem witness_DivResult_24_imm :
    signed.params.hasDiv = true ∧
      TypesAllow signed (imm24Cell (.long 0x800#12) (const24Ty (.divi_24 3#5 2#5 (.long 0x800#12)) signed 3#5 2#5))
        (operand (.divi_24 3#5 2#5 (.long 0x800#12)) signed 2#5) ∧
      (3#5 : Reg) ≠ resReg :=
  ⟨rfl, .inl rfl, by decide⟩
theorem witness_DivisionLaw :
    (0xFFFF#16 : Word) ≠ 0#16 ∧ ¬((0x8001#16 : Word) = 0x8000#16 ∧ (0xFFFF#16 : Word) = 0xFFFF#16) ∧
      0 ≤ (0x7FFF#16).toInt ∧ (0x8001#16).toInt ≤ 0 := by decide
theorem witness_CmpResult :
    TypesAllow signed (operand (.cmp 2#5 1#5) signed 1#5) (operand (.cmp 2#5 1#5) signed 2#5) :=
  .inl rfl
theorem witness_CmpResult_imm :
    TypesAllow signed (imm16Cell (.short 0b11111#5) (operand (.cmpi pcReg (.short 0b11111#5)) signed pcReg).t)
        (operand (.cmpi pcReg (.short 0b11111#5)) signed pcReg) :=
  .inl rfl
theorem witness_CmpResult_24 :
    TypesAllow signed (operand (.cmp_24 3#5 2#5 1#5) signed 1#5) (operand (.cmp_24 3#5 2#5 1#5) signed 2#5) :=
  .inl rfl
theorem witness_CmpResult_24_imm :
    TypesAllow signed (imm24Cell (.long 0x800#12) (const24Ty (.cmpi_24 3#5 2#5 (.long 0x800#12)) signed 3#5 2#5))
        (operand (.cmpi_24 3#5 2#5 (.long 0x800#12)) signed 2#5) :=
  .inl rfl
theorem witness_LogicOfRegistersResult : resReg ≠ pcReg := by decide
theorem witness_LogicWithImmediateResult : (30#5 : Reg) ≠ pcReg := by decide
theorem witness_LoadImmediateResult : resReg ≠ pcReg := by decide
theorem witness_ShftnResult : resReg ≠ pcReg := by decide
theorem witness_ExtctnResult :
    (30#5 : Reg) ≠ pcReg ∧ 15 = (n16Of16 (.long 0xFFFF#16)).toNat % 16 ∧ 15 = (n16Of16 (.long 0xFFFF#16)).toNat / 64 % 16 ∧
      15 = (if (15 : Nat) = 0 then 16 else 15) := by decide
theorem witness_ExtctnResult_whole :
    0 = (n16Of16 (.short 0#5)).toNat % 16 ∧ 0 = (n16Of16 (.short 0#5)).toNat / 64 % 16 ∧
      16 = (if (0 : Nat) = 0 then 16 else 0) := by decide

theorem witness_LdtnResult :
    (30#5 : Reg) ≠ pcReg ∧ Accessible16 State.reset (n16Of16 (.short 0b11110#5)) ∧
      Accessible16 State.reset (n16Of16 (.short 0b11110#5) + 2#16) :=
  ⟨by decide, ⟨.inl rfl, rfl, rfl⟩, .inl rfl, rfl, rfl⟩
theorem witness_SttnResult :
    Accessible16 State.reset (n16Of16 (.long 0xFFFE#16)) ∧ Accessible16 State.reset (n16Of16 (.long 0xFFFE#16) + 2#16) :=
  ⟨⟨.inl rfl, rfl, rfl⟩, .inl rfl, rfl, rfl⟩
/-- An odd address where MISALIGNED_DATA is split. -/
theorem witness_SttnResult_split :
    Accessible16 { State.reset with params := { Config.defaultParams with misalignedData := .split } }
      (n16Of16 (.long 0x3001#16)) := ⟨.inr rfl, rfl, rfl⟩
theorem witness_TypedStoreThenLoadRestores :
    n16Of16 (.short 8#5) = n16Of16 (.long 8#16) ∧ (5#5 : Reg) ≠ pcReg ∧ Accessible16 State.reset (n16Of16 (.long 8#16)) ∧
      Accessible16 State.reset (n16Of16 (.long 8#16) + 2#16) :=
  ⟨rfl, by decide, ⟨.inl rfl, rfl, rfl⟩, .inl rfl, rfl, rfl⟩

theorem witness_ByteLoadsResult_24 :
    eaOf24 (.ldu8_24 3#5 ⟨4#5, .offset (.short 0b1111#4)⟩) State.reset 1#16 ⟨4#5, .offset (.short 0b1111#4)⟩ =
      .ok 0xFFFF#16 ∧ (3#5 : Reg) ≠ pcReg ∧ Params.present State.reset.params 0xFFFF#16 = true :=
  ⟨rfl, by decide, rfl⟩
theorem witness_ByteLoadsResult_32 :
    eaOf32 (.ldu8_32 3#5 ⟨4#5, 5#5, 3#2, .reg 6#5⟩) State.reset 1#16 ⟨4#5, 5#5, 3#2, .reg 6#5⟩ = .ok 0#16 ∧
      (3#5 : Reg) ≠ pcReg ∧ Params.present State.reset.params 0#16 = true := ⟨rfl, by decide, rfl⟩
theorem witness_HalfWordLoadsResult_24 :
    eaOf24 (.ldu16_24 31#5 ⟨4#5, .offset (.short 0b1110#4)⟩) State.reset 2#16 ⟨4#5, .offset (.short 0b1110#4)⟩ =
      .ok 0xFFFE#16 ∧ Accessible16 State.reset 0xFFFE#16 := ⟨rfl, .inl rfl, rfl, rfl⟩
theorem witness_HalfWordLoadsResult_32 :
    eaOf32 (.lds16_32 3#5 ⟨4#5, 31#5, 3#2, .imm 0b1110#4⟩) State.reset 2#16 ⟨4#5, 31#5, 3#2, .imm 0b1110#4⟩ =
      .ok 0xFFFE#16 ∧ Accessible16 State.reset 0xFFFE#16 := ⟨rfl, .inl rfl, rfl, rfl⟩
theorem witness_FloatHalfWordLoadsResult :
    eaOf24 (.fld16_24 3#5 ⟨4#5, .index 31#5⟩) State.reset 2#16 ⟨4#5, .index 31#5⟩ = .ok 0#16 ∧ (3#5 : Reg) ≠ pcReg ∧
      Accessible16 State.reset 0#16 := ⟨rfl, by decide, .inl rfl, rfl, rfl⟩
theorem witness_FloatHalfWordLoadsResult_32 :
    eaOf32 (.f2ld16_32 3#5 ⟨4#5, 31#5, 0#2, .imm 0b0110#4⟩) State.reset 2#16 ⟨4#5, 31#5, 0#2, .imm 0b0110#4⟩ =
      .ok 6#16 ∧ (3#5 : Reg) ≠ pcReg ∧ Accessible16 State.reset 6#16 := ⟨rfl, by decide, .inl rfl, rfl, rfl⟩
theorem witness_LeaResult_24 :
    eaOf24 (.lea8_24 31#5 ⟨31#5, .offset (.long 0x800#12)⟩) State.reset 1#16 ⟨31#5, .offset (.long 0x800#12)⟩ =
      .ok 0xF804#16 := rfl
theorem witness_LeaResult_32 :
    eaOf32 (.lea16_32 31#5 ⟨31#5, 5#5, 3#2, .imm 0b1100#4⟩) State.reset 2#16 ⟨31#5, 5#5, 3#2, .imm 0b1100#4⟩ =
      .ok 0#16 := rfl
theorem witness_StoresResult_24 :
    (eaOf24 (.st8_24 31#5 ⟨4#5, .offset (.short 0b1111#4)⟩) State.reset 1#16 ⟨4#5, .offset (.short 0b1111#4)⟩ =
      .ok 0xFFFF#16 ∧ Params.present State.reset.params 0xFFFF#16 = true) ∧
      eaOf24 (.st16_24 31#5 ⟨4#5, .offset (.short 0b1110#4)⟩) State.reset 2#16 ⟨4#5, .offset (.short 0b1110#4)⟩ =
        .ok 0xFFFE#16 ∧ Accessible16 State.reset 0xFFFE#16 := ⟨⟨rfl, rfl⟩, rfl, .inl rfl, rfl, rfl⟩
theorem witness_StoresResult_32 :
    eaOf32 (.st16_32 3#5 ⟨4#5, 31#5, 3#2, .reg 30#5⟩) State.reset 2#16 ⟨4#5, 31#5, 3#2, .reg 30#5⟩ = .ok 0#16 ∧
      Accessible16 State.reset 0#16 ∧ Params.present State.reset.params 0#16 = true := ⟨rfl, ⟨.inl rfl, rfl, rfl⟩, rfl⟩

end Sys2Proof.Tests
end

section
/-! PROOFS. The encoding family (30_encoding.md): the immediate and the footprint of a 16-bit instruction (R67), which
opcodes take S (R68), and the size by the length code (R60). -/

namespace Sys2Proof.Laws.Encoding

open Sys2Proof Sys2Proof.Machine

/-! ## What an operand form says of its instruction -/

/-- Footprint and size of the instructions that take N (R65, R68). -/
theorem takenS16_ilen_format_of_takenN16 {i : Instr} {n : Imm16} (h : takenN16 i = some n) :
    takenS16 i = none ∧ i.ilen = n.ilen ∧ instrFormat i = .b16 := by
  cases i <;> cases h <;> exact ⟨rfl, rfl, rfl⟩

/-- The instructions that take S have no extension (R65, R68). -/
theorem takenN16_ilen_format_of_takenS16 {i : Instr} {r : Reg} (h : takenS16 i = some r) :
    takenN16 i = none ∧ i.ilen = 2 ∧ instrFormat i = .b16 := by
  cases i <;> cases h <;> exact ⟨rfl, rfl, rfl⟩

/-! ## The 16-bit decoder -/

/-- The opcodes that take S are 7 to 15 (R68). -/
theorem mem_of_takesN16_eq_false :
    ∀ o : BitVec 5, takesN16 o = false → o ∈ [7#5, 8#5, 9#5, 10#5, 11#5, 12#5, 13#5, 14#5, 15#5] := by decide

/-- The opcode decides between N and S: the rows of OPMAP16 are 7 with N, 9 with S, 16 with N (R68, R72). -/
theorem decode16_operand (w : BitVec 32) :
    (takesN16 (fieldOp5 w) = true ∧ takenN16 (decode16 w) = some (imm16Of w)) ∨
      (takesN16 (fieldOp5 w) = false ∧ takenS16 (decode16 w) = some (fieldS w)) := by
  unfold decode16
  split
  iterate 7 next ho => exact .inl ⟨congrArg takesN16 ho, rfl⟩
  iterate 9 next ho => exact .inr ⟨congrArg takesN16 ho, rfl⟩
  iterate 15 next ho => exact .inl ⟨congrArg takesN16 ho, rfl⟩
  next =>
    refine .inl ⟨?_, rfl⟩
    by_contra hs
    have hmem := mem_of_takesN16_eq_false _ (eq_false_of_ne_true hs)
    simp_all

/-- A 16-bit window decodes under any opcode maps, and its opcode decides between N and S (R66, R68). -/
theorem decodeWindowBy_b16 (m : OpMaps) {w : BitVec 32} (hw : formatOf w = .b16) :
    ∃ i, decodeWindowBy m w = .ok i ∧
      ((takesN16 (unrenumber m.op16 (fieldOp5 w)) = true ∧ takenN16 i = some (imm16Of w)) ∨
        (takesN16 (unrenumber m.op16 (fieldOp5 w)) = false ∧ takenS16 i = some (fieldS w))) := by
  refine ⟨decode16 (m.toDefault w), ?_, ?_⟩
  · simp [decodeWindowBy, decodeWindow, hw]
  · simpa [m.toDefault_b16 hw] using decode16_operand (m.toDefault w)

/-! ## Which decoder a window goes to, and the size of what it answers (R60, R66) -/

section
variable {w : BitVec 32} {i : Instr} {f : Format}

/-- An instruction made of an operand that the decoder may reject has the size of every instruction so made. -/
theorem instrFormat_of_map {α : Type} {mk : α → Instr} {x : Except DecodeError α}
    (hmk : ∀ a, instrFormat (mk a) = f) (h : x.map mk = .ok i) : instrFormat i = f := by
  cases x with
  | error e => cases h
  | ok a => cases h; exact hmk a

theorem instrFormat_of_access24 {mk : Reg → Addr24 → Instr} (hmk : ∀ d a, instrFormat (mk d a) = f)
    (h : access24 mk w = .ok i) : instrFormat i = f :=
  instrFormat_of_map (fun _ => hmk _ _) h

theorem instrFormat_of_alu24 {reg : Reg → Reg → Reg → Instr} {imm : Reg → Reg → Imm24 → Instr}
    (hreg : ∀ d s r, instrFormat (reg d s r) = f) (himm : ∀ d s n, instrFormat (imm d s n) = f)
    (h : alu24 reg imm w = .ok i) : instrFormat i = f := by
  unfold alu24 at h
  split at h
  · exact instrFormat_of_map (fun _ => himm _ _ _) h
  · cases h; exact hreg _ _ _

theorem instrFormat_of_access32 {mk : Reg → Addr32 → Instr} (hmk : ∀ d a, instrFormat (mk d a) = f)
    (h : access32 mk w = .ok i) : instrFormat i = f := by
  unfold access32 at h
  split at h
  · cases h
  · exact instrFormat_of_map (fun _ => hmk _ _) h

theorem instrFormat_decode16 (w : BitVec 32) : instrFormat (decode16 w) = .b16 := by
  obtain ⟨-, hn⟩ | ⟨-, hs⟩ := decode16_operand w
  · obtain ⟨-, -, hf⟩ := takenS16_ilen_format_of_takenN16 hn; exact hf
  · obtain ⟨-, -, hf⟩ := takenN16_ilen_format_of_takenS16 hs; exact hf

/-- OPMAP24 has 12 accesses and 8 arithmetic or logical rows (R73). -/
theorem instrFormat_decode24 (h : decode24 w = .ok i) : instrFormat i = .b24 := by
  unfold decode24 at h
  split at h
  iterate 12 next => exact instrFormat_of_access24 (fun _ _ => rfl) h
  iterate 8 next => exact instrFormat_of_alu24 (fun _ _ _ => rfl) (fun _ _ _ => rfl) h
  next => cases h

/-- OPMAP32 has 12 accesses (R74). -/
theorem instrFormat_decode32 (h : decode32 w = .ok i) : instrFormat i = .b32 := by
  unfold decode32 at h
  split at h
  iterate 12 next => exact instrFormat_of_access32 (fun _ _ => rfl) h
  next => cases h

/-- Decoding keeps the size that the length code tells, whatever the opcode maps (R60). -/
theorem instrFormat_decodeWindowBy {m : OpMaps} (h : decodeWindowBy m w = .ok i) :
    instrFormat i = formatOf w := by
  rw [← m.formatOf_toDefault w]
  unfold decodeWindowBy decodeWindow at h
  split at h
  next hf => cases h; rw [hf, instrFormat_decode16]
  next hf => rw [hf, instrFormat_decode24 h]
  next hf => rw [hf, instrFormat_decode32 h]

end

/-! ## The short range (R67) -/

theorem toInt_short (n : BitVec 5) : (n16Of16 (.short n)).toInt = n.toInt :=
  BitVec.toInt_signExtend_of_le (by decide)

/-- Without the escape, five bits hold -15 to +15. -/
theorem short_range : ∀ n : BitVec 5, n ≠ 0b10000#5 → -15 ≤ n.toInt ∧ n.toInt ≤ 15 := by decide

/-- An integer of the short range survives its five-bit two's complement. -/
theorem toInt_ofInt_of_short_range {z : Int} (hlo : -15 ≤ z) (hhi : z ≤ 15) : (BitVec.ofInt 5 z).toInt = z := by
  rw [BitVec.toInt_ofInt]
  exact Int.bmod_eq_of_le (by omega) (by omega)

/-- The value of a half word in the short range has a short form, which is not the escape. -/
theorem exists_short_of_range {x : Word} (hlo : -15 ≤ x.toInt) (hhi : x.toInt ≤ 15) :
    ∃ n : BitVec 5, (Imm16.short n).wf = true ∧ n16Of16 (.short n) = x := by
  have hint := toInt_ofInt_of_short_range hlo hhi
  refine ⟨BitVec.ofInt 5 x.toInt, ?_, BitVec.eq_of_toInt_eq ((toInt_short _).trans hint)⟩
  rw [Imm16.wf, bne_iff_ne]
  intro hesc
  have hmin : x.toInt = -16 := by rw [← hint, hesc]; decide
  omega

/-! ## The statements -/

/-- Settles O3: the operand the decoder reads is `imm16Of`, whose two branches are the two cases of R67. -/
theorem shortAndLongImmediates : Obligations.ShortAndLongImmediates := by
  refine ⟨fun m w i n hw hdec hn => ?_, fun x hlo hhi => exists_short_of_range hlo hhi⟩
  obtain ⟨hnoS, hilen, -⟩ := takenS16_ilen_format_of_takenN16 hn
  have himm : n = imm16Of w := by
    obtain ⟨j, hj, hform⟩ := decodeWindowBy_b16 m hw
    obtain rfl : j = i := Except.ok.inj (hj.symm.trans hdec)
    obtain ⟨-, htaken⟩ | ⟨-, htaken⟩ := hform
    · exact Option.some.inj (hn.symm.trans htaken)
    · cases hnoS.symm.trans htaken
  constructor
  · intro hesc
    rw [hilen, himm, imm16Of, if_pos hesc]
    exact ⟨rfl, rfl⟩
  · intro hshort
    obtain ⟨hlo, hhi⟩ := short_range _ hshort
    rw [hilen, himm, imm16Of, if_neg hshort, toInt_short]
    exact ⟨rfl, hlo, hhi, rfl⟩

/-- Settles O4, by the row of OPMAP16 that the renumbered opcode names. -/
theorem opcodeFixesWhetherTopIsNOrS : Obligations.OpcodeFixesWhetherTopIsNOrS := by
  intro m w hw
  obtain ⟨i, hdec, ⟨hop, hn⟩ | ⟨hop, hs⟩⟩ := decodeWindowBy_b16 m hw
  · obtain ⟨hnoS, -, -⟩ := takenS16_ilen_format_of_takenN16 hn
    exact ⟨i, hdec, by rw [hn, hop]; rfl, .inl ⟨hn, hnoS⟩⟩
  · obtain ⟨hnoN, hilen, -⟩ := takenN16_ilen_format_of_takenS16 hs
    exact ⟨i, hdec, by rw [hnoN, hop]; rfl, .inr ⟨hs, hnoN, hilen⟩⟩

/-- Settles O5: the size of the decoded instruction is `formatOf` of the window, which reads its two lowest bits. -/
theorem lengthCodeTellsTheSize : Obligations.LengthCodeTellsTheSize := by
  intro m w i h
  rw [instrFormat_decodeWindowBy h, formatOf]
  exact ⟨fun h0 => by rw [if_pos h0],
    fun h0 h1 => by rw [if_neg (ne_true_of_eq_false h0), if_pos h1],
    fun h0 h1 => by rw [if_neg (ne_true_of_eq_false h0), if_neg (ne_true_of_eq_false h1)]⟩

end Sys2Proof.Laws.Encoding
end

section
/-! PROOFS. The codec: the layouts are the windows of their format (30_encoding.md R60 to R63). -/

namespace Sys2Proof.Laws.Codec

open Sys2Proof Sys2Proof.Machine

/-! ## Every window is a layout of its fields (R60 to R63) -/

theorem formatOf_b16 {w : BitVec 32} (h : formatOf w = .b16) : w.getLsbD 0 = true := by
  unfold formatOf at h
  split at h
  · assumption
  · split at h <;> cases h

theorem formatOf_b24 {w : BitVec 32} (h : formatOf w = .b24) : w.getLsbD 0 = false ∧ w.getLsbD 1 = true := by
  unfold formatOf at h
  split at h
  · cases h
  · next h0 =>
    split at h
    · next h1 => exact ⟨eq_false_of_ne_true h0, h1⟩
    · cases h

theorem formatOf_b32 {w : BitVec 32} (h : formatOf w = .b32) : w.getLsbD 0 = false ∧ w.getLsbD 1 = false := by
  unfold formatOf at h
  split at h
  · cases h
  · next h0 =>
    split at h
    · cases h
    · next h1 => exact ⟨eq_false_of_ne_true h0, eq_false_of_ne_true h1⟩

theorem eq_layout16 {w : BitVec 32} (h : formatOf w = .b16) :
    w = layout16 (fieldOp5 w) (fieldD w) (fieldS w) (w.extractLsb' 16 16) := by
  have h0 := formatOf_b16 h
  refine BitVec.eq_of_getLsbD_eq fun k hk => ?_
  simp only [layout16, fieldD, fieldS, BitVec.getLsbD_append, BitVec.getLsbD_extractLsb', getLsbD_fieldOp5]
  interval_cases k <;> simp [h0, -BitVec.getLsbD_eq_getElem]

theorem eq_layout24 {w : BitVec 32} (h : formatOf w = .b24) :
    w = layout24 (fieldOp6 w) (fieldD w) (fieldS w) (w.extractLsb' 18 1) (fieldR w) (w.extractLsb' 24 8) := by
  obtain ⟨h0, h1⟩ := formatOf_b24 h
  refine BitVec.eq_of_getLsbD_eq fun k hk => ?_
  simp only [layout24, fieldD, fieldS, fieldR, BitVec.getLsbD_append, BitVec.getLsbD_extractLsb', getLsbD_fieldOp6]
  interval_cases k <;> simp [h0, h1, -BitVec.getLsbD_eq_getElem]

theorem eq_layout32 {w : BitVec 32} (h : formatOf w = .b32) :
    w = layout32 (fieldOp6 w) (fieldOpC w) (fieldD w) (fieldS w) (fieldR w) (w.extractLsb' 18 1) (fieldT w) := by
  obtain ⟨h0, h1⟩ := formatOf_b32 h
  refine BitVec.eq_of_getLsbD_eq fun k hk => ?_
  simp only [layout32, fieldD, fieldS, fieldR, fieldT, fieldOpC, BitVec.getLsbD_append, BitVec.getLsbD_extractLsb',
    getLsbD_fieldOp6]
  interval_cases k <;> simp [h0, h1, -BitVec.getLsbD_eq_getElem]

/-! ## A layout under other opcode maps, and its low bits -/

/-- Another opcode in a 16-bit layout. -/
theorem withOp5_layout16 (op5 op5' : BitVec 5) (d top : Reg) (ext : Word) :
    withOp5 (layout16 op5 d top ext) op5' = layout16 op5' d top ext := by
  have h := eq_layout16 (formatOf_withOp5 (layout16 op5 d top ext) op5' (by simp))
  simpa using h

/-- The bit `ie` of a 24-bit window is no opcode bit. -/
theorem ieBit_withOp6 (w : BitVec 32) (o : BitVec 6) : (withOp6 w o).extractLsb' 18 1 = w.extractLsb' 18 1 := by
  refine BitVec.eq_of_getLsbD_eq fun k hk => ?_
  simp only [BitVec.getLsbD_extractLsb', getLsbD_withOp6]
  interval_cases k; simp

/-- Another opcode in a 24-bit layout. -/
theorem withOp6_layout24 (op6 op6' : BitVec 6) (d s : Reg) (ie : BitVec 1) (top : Reg) (ext : Byte) :
    withOp6 (layout24 op6 d s ie top ext) op6' = layout24 op6' d s ie top ext := by
  have hie : (layout24 op6 d s ie top ext).extractLsb' 18 1 = ie := by
    unfold layout24; simp only [BitVec.extractLsb'_append_eq_ite]; simp
  have h := eq_layout24 (w := withOp6 (layout24 op6 d s ie top ext) op6') (by simp)
  simpa [ieBit_withOp6, hie] using h

theorem ofDefault_layout16 (m : OpMaps) (op5 : BitVec 5) (d top : Reg) (ext : Word) :
    m.ofDefault (layout16 op5 d top ext) = layout16 (renumber m.op16 op5) d top ext := by
  rw [m.ofDefault_b16 (by simp), withOp5_layout16, fieldOp5_layout16]

theorem toDefault_layout16 (m : OpMaps) (op5 : BitVec 5) (d top : Reg) (ext : Word) :
    m.toDefault (layout16 op5 d top ext) = layout16 (unrenumber m.op16 op5) d top ext := by
  rw [m.toDefault_b16 (by simp), withOp5_layout16, fieldOp5_layout16]

theorem ofDefault_layout24 (m : OpMaps) (op6 : BitVec 6) (d s : Reg) (ie : BitVec 1) (top : Reg) (ext : Byte) :
    m.ofDefault (layout24 op6 d s ie top ext) = layout24 (renumber m.op24 op6) d s ie top ext := by
  rw [m.ofDefault_b24 (by simp), withOp6_layout24, fieldOp6_layout24]

theorem getLsbD_tableWindow (n : Nat) (w : BitVec 32) (k : Nat) :
    (tableWindow n w.toNat).getLsbD k = (decide (k < n) && w.getLsbD k) := by
  rcases Nat.lt_or_ge k 32 with h | h
  · rw [tableWindow, BitVec.getLsbD_ofNat, Nat.testBit_mod_two_pow, decide_eq_true h, Bool.true_and]; rfl
  · rw [w.getLsbD_of_ge k h, BitVec.getLsbD_of_ge _ k h, Bool.and_false]

/-- The four bytes of a window are all of it. -/
theorem tableWindow_32 (w : BitVec 32) : tableWindow 32 w.toNat = w := by
  rw [tableWindow, Nat.mod_eq_of_lt w.isLt, BitVec.ofNat_toNat, BitVec.setWidth_eq]

/-- Two bytes of a 16-bit layout: all but the half word above (R61). -/
theorem tableWindow_layout16 (op5 : BitVec 5) (d top : Reg) (ext : Word) :
    tableWindow 16 (layout16 op5 d top ext).toNat = layout16 op5 d top 0#16 := by
  refine BitVec.eq_of_getLsbD_eq fun k hk => ?_
  simp only [getLsbD_tableWindow, layout16, BitVec.getLsbD_append, BitVec.getLsbD_zero]
  interval_cases k <;> simp

/-- Three bytes of a 24-bit layout: all but the byte above (R62). -/
theorem tableWindow_layout24 (op6 : BitVec 6) (d s : Reg) (ie : BitVec 1) (top : Reg) (ext : Byte) :
    tableWindow 24 (layout24 op6 d s ie top ext).toNat = layout24 op6 d s ie top 0#8 := by
  refine BitVec.eq_of_getLsbD_eq fun k hk => ?_
  simp only [getLsbD_tableWindow, layout24, BitVec.getLsbD_append, BitVec.getLsbD_zero]
  interval_cases k <;> simp

/-- The first two bytes of a 16-bit layout, and any bytes after them, are a layout of the same fields. -/
theorem windowOf_two_bytes (op5 : BitVec 5) (d top : Reg) (ext : Word) (rest : List Byte) :
    ∃ ext', windowOf ((windowBytes (layout16 op5 d top ext)).take 2 ++ rest) = layout16 op5 d top ext' := by
  refine ⟨rest.getD 1 0#8 ++ rest.getD 0 0#8, BitVec.eq_of_getLsbD_eq fun k hk => ?_⟩
  simp only [windowOf, windowBytes, List.take, List.cons_append, List.nil_append, List.getD_cons_succ,
    List.getD_cons_zero, layout16, BitVec.getLsbD_append, BitVec.getLsbD_extractLsb']
  interval_cases k <;> simp

end Sys2Proof.Laws.Codec
end

section
/-! PROOFS. The codec: the decoder reads every encoding back (30_encoding.md R67 to R74). -/

namespace Sys2Proof.Laws.Codec

open Sys2Proof Sys2Proof.Machine

/-! ## The fields of an encoding -/

section
variable (op5 : BitVec 5) (op6 : BitVec 6) (d s : Reg)

@[simp] theorem formatOf_encodeN16 (n : Imm16) : formatOf (encodeN16 op5 d n) = .b16 := by cases n <;> simp [encodeN16]

@[simp] theorem fieldOp5_encodeN16 (n : Imm16) : fieldOp5 (encodeN16 op5 d n) = op5 := by cases n <;> simp [encodeN16]

@[simp] theorem fieldD_encodeN16 (n : Imm16) : fieldD (encodeN16 op5 d n) = d := by cases n <;> simp [encodeN16]

@[simp] theorem formatOf_encodeR24 (r : Reg) : formatOf (encodeR24 op6 d s r) = .b24 := by simp [encodeR24]

@[simp] theorem fieldOp6_encodeR24 (r : Reg) : fieldOp6 (encodeR24 op6 d s r) = op6 := by simp [encodeR24]

@[simp] theorem formatOf_encodeN24 (n : Imm24) : formatOf (encodeN24 op6 d s n) = .b24 := by
  cases n <;> simp [encodeN24]

@[simp] theorem fieldOp6_encodeN24 (n : Imm24) : fieldOp6 (encodeN24 op6 d s n) = op6 := by cases n <;> simp [encodeN24]

@[simp] theorem fieldD_encodeN24 (n : Imm24) : fieldD (encodeN24 op6 d s n) = d := by cases n <;> simp [encodeN24]

@[simp] theorem fieldS_encodeN24 (n : Imm24) : fieldS (encodeN24 op6 d s n) = s := by cases n <;> simp [encodeN24]

@[simp] theorem fieldIe_encodeN24 (n : Imm24) : fieldIe (encodeN24 op6 d s n) = true := by cases n <;> simp [encodeN24]

@[simp] theorem formatOf_encodeAccess24 (a : Addr24) : formatOf (encodeAccess24 op6 d a) = .b24 := by
  obtain ⟨s, r | n⟩ := a <;> simp [encodeAccess24]

@[simp] theorem fieldOp6_encodeAccess24 (a : Addr24) : fieldOp6 (encodeAccess24 op6 d a) = op6 := by
  obtain ⟨s, r | n⟩ := a <;> simp [encodeAccess24]

@[simp] theorem formatOf_encodeAccess32 (a : Addr32) : formatOf (encodeAccess32 op6 d a) = .b32 := by
  obtain ⟨s, r, y, t | n⟩ := a <;> simp [encodeAccess32]

@[simp] theorem fieldOp6_encodeAccess32 (a : Addr32) : fieldOp6 (encodeAccess32 op6 d a) = op6 := by
  obtain ⟨s, r, y, t | n⟩ := a <;> simp [encodeAccess32]

end

/-! ## The decoder reads every encoding back -/

theorem access24_encodeAccess24 (mk : Reg → Addr24 → Instr) (op6 : BitVec 6) (d : Reg) {a : Addr24}
    (h : a.x.wf = true) : access24 mk (encodeAccess24 op6 d a) = .ok (mk d a) := by
  obtain ⟨s, r | n⟩ := a
  · simp [access24, index24Of, encodeAccess24, encodeR24, Except.map]
  · simp [access24, index24Of, encodeAccess24, imm24Of_encodeN24 op6 d s h, Except.map]

theorem alu24_encodeR24 (reg : Reg → Reg → Reg → Instr) (imm : Reg → Reg → Imm24 → Instr) (op6 : BitVec 6)
    (d s r : Reg) : alu24 reg imm (encodeR24 op6 d s r) = .ok (reg d s r) := by
  simp [alu24, encodeR24]

theorem alu24_encodeN24 (reg : Reg → Reg → Reg → Instr) (imm : Reg → Reg → Imm24 → Instr) (op6 : BitVec 6)
    (d s : Reg) {n : Imm24} (h : n.wf = true) : alu24 reg imm (encodeN24 op6 d s n) = .ok (imm d s n) := by
  simp [alu24, imm24Of_encodeN24 op6 d s h, Except.map]

/-- The decoder reads back the short immediate of a 32-bit instruction (R70). -/
theorem imm32Of_layout32 (op6 : BitVec 6) (opC : BitVec 3) (d s r : Reg) (ie : BitVec 1) {n : BitVec 4}
    (h : shortCodeWf n = true) : imm32Of (layout32 op6 opC d s r ie (1#1 ++ n)) = .ok n := by
  have hn : ((1#1 ++ n : BitVec 5).extractLsb' 2 2 != 0b10#2) = true := by rw [extract22_append]; exact h
  rw [imm32Of, top4_layout32, top32_layout32, top30_layout32, bit4_append1, hn, extract04_append]
  rfl

theorem access32_encodeAccess32 (mk : Reg → Addr32 → Instr) (op6 : BitVec 6) (d : Reg) {a : Addr32}
    (h : a.x.wf = true) : access32 mk (encodeAccess32 op6 d a) = .ok (mk d a) := by
  obtain ⟨s, r, y, t | n⟩ := a
  all_goals
    have hC : (0#1 ++ y).getLsbD 2 = false := by rw [BitVec.getLsbD_append]; simp
    have hy : (0#1 ++ y).extractLsb' 0 2 = y := by simp only [BitVec.extractLsb'_append_eq_ite]; simp
  · simp [access32, offset32Of, encodeAccess32, hC, hy, Except.map, -BitVec.getLsbD_eq_getElem]
  · simp [access32, offset32Of, encodeAccess32, hC, hy, imm32Of_layout32 _ _ _ _ _ _ h, Except.map,
      -BitVec.getLsbD_eq_getElem]

/-- OPMAP16, read back row by row (R72). -/
theorem decodeWindow_window16 {i : Instr} (hf : instrFormat i = .b16) (h : i.WellFormed) :
    decodeWindow i.window = .ok i := by
  cases i with
  | inn d n | outn d n | bsrn d n | brzn d n | brnzn d n | brpn d n | brmn d n | addi d n | subi d n | muli d n
  | divi d n | cmpi d n | andi d n | ori d n | xori d n | ldui d n | ldsi d n | ldfi d n | ldf2i d n | shftn d n
  | extctn d n | ldtn d n | sttn d n =>
    simp [Instr.window, decodeWindow, decode16, imm16Of_encodeN16 _ _ h]
  | mov d s | add d s | sub d s | mul d s | div d s | cmp d s | and d s | or d s | xor d s =>
    simp [Instr.window, encodeS16, decodeWindow, decode16]
  | _ => cases hf

/-- OPMAP24, read back row by row (R73). -/
theorem decodeWindow_window24 {i : Instr} (hf : instrFormat i = .b24) (h : i.WellFormed) :
    decodeWindow i.window = .ok i := by
  cases i with
  | ldu8_24 d a | ldu16_24 d a | lds8_24 d a | lds16_24 d a | fld8_24 d a | fld16_24 d a | f2ld8_24 d a
  | f2ld16_24 d a | lea8_24 d a | lea16_24 d a | st8_24 d a | st16_24 d a =>
    simp [Instr.window, decodeWindow, decode24, access24_encodeAccess24 _ _ _ h]
  | add_24 d s r | sub_24 d s r | mul_24 d s r | div_24 d s r | cmp_24 d s r | and_24 d s r | or_24 d s r
  | xor_24 d s r =>
    simp [Instr.window, decodeWindow, decode24, alu24_encodeR24]
  | addi_24 d s n | subi_24 d s n | muli_24 d s n | divi_24 d s n | cmpi_24 d s n | andi_24 d s n | ori_24 d s n
  | xori_24 d s n =>
    simp [Instr.window, decodeWindow, decode24, alu24_encodeN24 _ _ _ _ _ h]
  | _ => cases hf

/-- OPMAP32, read back row by row (R74). -/
theorem decodeWindow_window32 {i : Instr} (hf : instrFormat i = .b32) (h : i.WellFormed) :
    decodeWindow i.window = .ok i := by
  cases i with
  | ldu8_32 d a | ldu16_32 d a | lds8_32 d a | lds16_32 d a | fld8_32 d a | fld16_32 d a | f2ld8_32 d a
  | f2ld16_32 d a | lea8_32 d a | lea16_32 d a | st8_32 d a | st16_32 d a =>
    simp [Instr.window, decodeWindow, decode32, access32_encodeAccess32 _ _ _ h]
  | _ => cases hf

theorem decodeWindow_window {i : Instr} (h : i.WellFormed) : decodeWindow i.window = .ok i := by
  cases hf : instrFormat i with
  | b16 => exact decodeWindow_window16 hf h
  | b24 => exact decodeWindow_window24 hf h
  | b32 => exact decodeWindow_window32 hf h

end Sys2Proof.Laws.Codec
end

section
/-! PROOFS. The codec: the round trip from instructions to bytes and back (30_encoding.md R60 to R76). -/

namespace Sys2Proof.Laws.Codec

open Sys2Proof Sys2Proof.Machine
open Sys2Proof.Laws.Encoding (mem_of_takesN16_eq_false)

/-! ## A two-byte instruction reads no extension (R66, R67) -/

/-- Windows of one opcode, D and top field decode to one instruction, if N, where the opcode takes it, is the same. -/
theorem decode16_congr {w w' : BitVec 32} (hop : fieldOp5 w = fieldOp5 w') (hd : fieldD w = fieldD w')
    (hs : fieldS w = fieldS w') (hn : takesN16 (fieldOp5 w') = true → imm16Of w = imm16Of w') :
    decode16 w = decode16 w' := by
  cases ht : takesN16 (fieldOp5 w') with
  | true => simp only [decode16, hop, hd, hs, hn ht]
  | false =>
    have hmem := mem_of_takesN16_eq_false _ ht
    simp only [List.mem_cons, List.not_mem_nil, or_false] at hmem
    rcases hmem with h | h | h | h | h | h | h | h | h <;> simp only [decode16, hop, hd, hs, h]

/-- An instruction of two bytes is a 16-bit layout whose opcode takes S or whose field is no escape. -/
theorem window_of_ilen_two {i : Instr} (h : i.WellFormed) (h2 : i.ilen = 2) :
    ∃ (op5 : BitVec 5) (d top : Reg), i.window = layout16 op5 d top 0#16 ∧
      (takesN16 op5 = true → top ≠ 0b10000#5) := by
  cases i with
  | inn d n | outn d n | bsrn d n | brzn d n | brnzn d n | brpn d n | brmn d n | addi d n | subi d n | muli d n
  | divi d n | cmpi d n | andi d n | ori d n | xori d n | ldui d n | ldsi d n | ldfi d n | ldf2i d n | shftn d n
  | extctn d n | ldtn d n | sttn d n =>
    cases n with
    | short n => exact ⟨_, d, n, rfl, fun _ => bne_iff_ne.mp h⟩
    | long n => cases h2
  | mov d s | add d s | sub d s | mul d s | div d s | cmp d s | and d s | or d s | xor d s =>
    exact ⟨_, d, s, rfl, fun ht => absurd ht (by decide)⟩
  | _ => cases h2

theorem ilen_two_or_four (i : Instr) : i.ilen = 2 ∨ i.ilen = 4 := by
  cases i with
  | inn d n | outn d n | bsrn d n | brzn d n | brnzn d n | brpn d n | brmn d n | addi d n | subi d n | muli d n
  | divi d n | cmpi d n | andi d n | ori d n | xori d n | ldui d n | ldsi d n | ldfi d n | ldf2i d n | shftn d n
  | extctn d n | ldtn d n | sttn d n => cases n with
    | short n => exact .inl rfl
    | long n => exact .inr rfl
  | mov d s | add d s | sub d s | mul d s | div d s | cmp d s | and d s | or d s | xor d s => exact .inl rfl
  | _ => exact .inr rfl

/-- What stands above the first half word does not matter to an instruction of two bytes. -/
theorem decodeWindow_layout16_ext {op5 : BitVec 5} {d top : Reg} (ext ext' : Word)
    (h : takesN16 op5 = true → top ≠ 0b10000#5) :
    decodeWindow (layout16 op5 d top ext) = decodeWindow (layout16 op5 d top ext') := by
  simp only [decodeWindow, formatOf_layout16]
  refine congrArg _ (decode16_congr (by simp) (by simp) (by simp) fun ht => ?_)
  simp [imm16Of, h (by simpa using ht)]

/-- Settles O1: the bytes of an instruction of four bytes are its whole window; after one of two bytes the decoder sees
other bits in the extension, and reads none of them. -/
theorem decodeEncodeRoundTrip : Obligations.DecodeEncodeRoundTrip := by
  intro m i rest h
  unfold decodeBy decodeWindowBy encodeBy
  rcases ilen_two_or_four i with h2 | h4
  · obtain ⟨op5, d, top, hw, htop⟩ := window_of_ilen_two h h2
    have hi := decodeWindow_window h
    rw [hw] at hi
    obtain ⟨ext', hext⟩ := windowOf_two_bytes (renumber m.op16 op5) d top 0#16 rest
    rw [h2, hw, ofDefault_layout16, hext, toDefault_layout16, unrenumber_renumber,
      decodeWindow_layout16_ext ext' 0#16 htop, hi]
  · have htake : (windowBytes (m.ofDefault i.window)).take 4 = windowBytes (m.ofDefault i.window) := rfl
    rw [h4, htake, windowOf_windowBytes, m.toDefault_ofDefault, decodeWindow_window h]

end Sys2Proof.Laws.Codec
end

section
/-! PROOFS. The codec: the rows of the opcode maps, what decodes and what does not (30_encoding.md R69 to R76). -/

namespace Sys2Proof.Laws.Codec

open Sys2Proof Sys2Proof.Machine

/-! ## The rows of the opcode maps (R72 to R74) -/

/-- The opcodes of the twelve loads, LEAs and stores, in OPMAP24 and in OPMAP32. -/
def accessOps : List (BitVec 6) := [0#6, 1#6, 4#6, 5#6, 8#6, 9#6, 12#6, 13#6, 16#6, 17#6, 20#6, 21#6]

/-- The opcodes of the eight arithmetic and logical rows of OPMAP24. -/
def aluOps : List (BitVec 6) := [24#6, 25#6, 26#6, 27#6, 28#6, 29#6, 30#6, 31#6]

/-- `mk` makes the loads, LEAs or stores whose 24-bit opcode is `op6`. -/
def AccessRow24 (op6 : BitVec 6) (mk : Reg → Addr24 → Instr) : Prop :=
  ∀ d a, (mk d a).window = encodeAccess24 op6 d a ∧ (mk d a).wf = a.x.wf

/-- `reg` and `imm` make the two forms of the 24-bit arithmetic or logical instruction whose opcode is `op6`. -/
def AluRow24 (op6 : BitVec 6) (reg : Reg → Reg → Reg → Instr) (imm : Reg → Reg → Imm24 → Instr) : Prop :=
  (∀ d s r, (reg d s r).window = encodeR24 op6 d s r ∧ (reg d s r).wf = true) ∧
    ∀ d s n, (imm d s n).window = encodeN24 op6 d s n ∧ (imm d s n).wf = n.wf

/-- `mk` makes the loads, LEAs or stores whose 32-bit opcode is `op6`. -/
def AccessRow32 (op6 : BitVec 6) (mk : Reg → Addr32 → Instr) : Prop :=
  ∀ d a, (mk d a).window = encodeAccess32 op6 d a ∧ (mk d a).wf = a.x.wf

/-- Everything OPMAP24 can answer: one of its twelve accesses, one of its eight operations, or nothing (R73). -/
theorem decode24_row (w : BitVec 32) :
    (fieldOp6 w ∈ accessOps ∧ ∃ mk, AccessRow24 (fieldOp6 w) mk ∧ decode24 w = access24 mk w) ∨
      (fieldOp6 w ∈ aluOps ∧ ∃ reg imm, AluRow24 (fieldOp6 w) reg imm ∧ decode24 w = alu24 reg imm w) ∨
        (fieldOp6 w ∉ accessOps ∧ fieldOp6 w ∉ aluOps ∧ decode24 w = .error .unassigned) := by
  unfold decode24
  split
  iterate 12 next ho => rw [ho]; exact .inl ⟨by decide, _, fun _ _ => ⟨rfl, rfl⟩, rfl⟩
  iterate 8
    next ho => rw [ho]; exact .inr (.inl ⟨by decide, _, _, ⟨fun _ _ _ => ⟨rfl, rfl⟩, fun _ _ _ => ⟨rfl, rfl⟩⟩, rfl⟩)
  next => exact .inr (.inr ⟨by simp_all [accessOps], by simp_all [aluOps], rfl⟩)

/-- Everything OPMAP32 can answer: one of its twelve accesses, or nothing (R74). -/
theorem decode32_row (w : BitVec 32) :
    (fieldOp6 w ∈ accessOps ∧ ∃ mk, AccessRow32 (fieldOp6 w) mk ∧ decode32 w = access32 mk w) ∨
      (fieldOp6 w ∉ accessOps ∧ decode32 w = .error .unassigned) := by
  unfold decode32
  split
  iterate 12 next ho => rw [ho]; exact .inl ⟨by decide, _, fun _ _ => ⟨rfl, rfl⟩, rfl⟩
  next => exact .inr ⟨by simp_all [accessOps], rfl⟩

/-- Everything OPMAP16 can answer (R72): the opcode decides between N and S. -/
theorem decode16_row (w : BitVec 32) :
    (takesN16 (fieldOp5 w) = true ∧ (decode16 w).window = encodeN16 (fieldOp5 w) (fieldD w) (imm16Of w) ∧
        (decode16 w).wf = (imm16Of w).wf) ∨
      (takesN16 (fieldOp5 w) = false ∧ (decode16 w).window = encodeS16 (fieldOp5 w) (fieldD w) (fieldS w) ∧
        (decode16 w).wf = true) := by
  unfold decode16
  split
  iterate 7 next ho => rw [ho]; exact .inl ⟨rfl, rfl, rfl⟩
  iterate 9 next ho => rw [ho]; exact .inr ⟨rfl, rfl, rfl⟩
  iterate 15 next ho => rw [ho]; exact .inl ⟨rfl, rfl, rfl⟩
  next =>
    have h31 : ∀ o : BitVec 5, o = 31#5 ∨ o ∈ (List.range 31).map (BitVec.ofNat 5) := by decide
    obtain ho | ho := h31 (fieldOp5 w)
    · rw [ho]; exact .inl ⟨rfl, rfl, rfl⟩
    · simp [List.range_succ] at ho; simp_all

/-! ## What a decoded operand says of the window -/

section
variable {w : BitVec 32}

/-- The 16-bit immediate and the bytes it takes (R67). -/
theorem imm16Of_window (hf : formatOf w = .b16) (ht : takesN16 (fieldOp5 w) = true) :
    (imm16Of w).wf = true ∧
      encodeN16 (fieldOp5 w) (fieldD w) (imm16Of w) = tableWindow (8 * fetchLength w) w.toNat := by
  have hw := eq_layout16 hf
  by_cases hs : fieldS w = 0b10000#5
  · have hlen : fetchLength w = 4 := by simp [fetchLength, hf, ht, hs]
    rw [hlen, tableWindow_32, imm16Of, if_pos hs]
    exact ⟨rfl, by rw [encodeN16, ← hs, ← hw]⟩
  · have hlen : fetchLength w = 2 := by simp [fetchLength, hf, hs]
    have htab := tableWindow_layout16 (fieldOp5 w) (fieldD w) (fieldS w) (w.extractLsb' 16 16)
    rw [← hw] at htab
    rw [hlen, htab, imm16Of, if_neg hs]
    exact ⟨bne_iff_ne.mpr hs, rfl⟩

/-- The bit `ie` as a field of the layouts. -/
theorem ieBit (w : BitVec 32) : w.extractLsb' 18 1 = BitVec.ofBool (fieldIe w) := by
  refine BitVec.eq_of_getLsbD_eq fun k hk => ?_
  interval_cases k; simp [fieldIe]

/-- The top bit of a five-bit field and its low four bits. -/
theorem extract5_split (w : BitVec 32) (k : Nat) :
    w.extractLsb' k 5 = BitVec.ofBool (w.getLsbD (k + 4)) ++ w.extractLsb' k 4 := by
  refine BitVec.eq_of_getLsbD_eq fun j hj => ?_
  simp only [BitVec.getLsbD_append, BitVec.getLsbD_extractLsb']
  interval_cases j <;> simp

/-- The two parts of `opC`: the bit that must be 0, and `y - 1` (R74). -/
theorem fieldOpC_split (w : BitVec 32) : fieldOpC w = BitVec.ofBool (w.getLsbD 26) ++ w.extractLsb' 24 2 := by
  refine BitVec.eq_of_getLsbD_eq fun j hj => ?_
  simp only [fieldOpC, BitVec.getLsbD_append, BitVec.getLsbD_extractLsb']
  interval_cases j <;> simp

/-- Bits 3:2 of a field of four bits or more. -/
theorem extract22_extract (w : BitVec 32) (k : Nat) {n : Nat} (hn : 4 ≤ n) :
    (w.extractLsb' k n).extractLsb' 2 2 = w.extractLsb' (k + 2) 2 := by
  refine BitVec.eq_of_getLsbD_eq fun j hj => ?_
  simp only [BitVec.getLsbD_extractLsb', decide_eq_true (show 2 + j < n by omega), Bool.true_and, Nat.add_assoc]

/-- A decoded part comes from a decoded operand. -/
theorem map_eq_ok {ε α β : Type} {f : α → β} {x : Except ε α} {b : β} (h : x.map f = .ok b) :
    ∃ a, x = .ok a ∧ f a = b := by
  cases x with
  | error e => cases h
  | ok a => exact ⟨a, rfl, Except.ok.inj h⟩

/-- The register form of a 24-bit window (R62). -/
theorem encodeR24_fields (hf : formatOf w = .b24) (hie : fieldIe w = false) :
    encodeR24 (fieldOp6 w) (fieldD w) (fieldS w) (fieldR w) = tableWindow (8 * fetchLength w) w.toNat := by
  have hlen : fetchLength w = 3 := by simp [fetchLength, hf, hie]
  have htab := tableWindow_layout24 (fieldOp6 w) (fieldD w) (fieldS w) (w.extractLsb' 18 1) (fieldR w)
    (w.extractLsb' 24 8)
  rw [← eq_layout24 hf, ieBit, hie] at htab
  rw [hlen, htab]
  rfl

/-- The immediate form of a 24-bit window (R69). -/
theorem imm24Of_window {n : Imm24} (hf : formatOf w = .b24) (hie : fieldIe w = true) (hn : imm24Of w = .ok n) :
    n.wf = true ∧
      encodeN24 (fieldOp6 w) (fieldD w) (fieldS w) n = tableWindow (8 * fetchLength w) w.toNat := by
  have hw := eq_layout24 hf
  have htop : fieldR w = BitVec.ofBool (w.getLsbD 23) ++ w.extractLsb' 19 4 := extract5_split w 19
  rw [ieBit, hie, htop] at hw
  unfold imm24Of at hn
  split at hn
  · next h23 =>
    split at hn
    · cases hn
    · next hres =>
      cases hn
      have hlow : (w.extractLsb' 19 4).extractLsb' 2 2 = w.extractLsb' 21 2 := extract22_extract w 19 (by decide)
      have hlen : fetchLength w = 3 := by simp [fetchLength, hf, h23]
      have htab := tableWindow_layout24 (fieldOp6 w) (fieldD w) (fieldS w) 1#1 (1#1 ++ w.extractLsb' 19 4)
        (w.extractLsb' 24 8)
      rw [h23] at hw
      refine ⟨by rw [Imm24.wf, shortCodeWf, hlow]; exact bne_iff_ne.mpr hres, ?_⟩
      rw [hlen, encodeN24, ← htab]
      exact congrArg (fun v => tableWindow 24 (BitVec.toNat v)) hw.symm
  · next h23 =>
    cases hn
    have h23 := eq_false_of_ne_true h23
    have hlen : fetchLength w = 4 := by simp [fetchLength, hf, hie, h23, -BitVec.getLsbD_eq_getElem]
    rw [h23] at hw
    refine ⟨rfl, ?_⟩
    have hhi : (w.extractLsb' 24 8 ++ w.extractLsb' 19 4).extractLsb' 4 8 = w.extractLsb' 24 8 := by
      simp only [BitVec.extractLsb'_append_eq_ite]; simp
    have hlo : (w.extractLsb' 24 8 ++ w.extractLsb' 19 4).extractLsb' 0 4 = w.extractLsb' 19 4 := by
      simp only [BitVec.extractLsb'_append_eq_ite]; simp
    rw [hlen, tableWindow_32, encodeN24, hhi, hlo]
    exact hw.symm

/-- The index or offset of a 24-bit access (R62, R69). -/
theorem index24Of_window {x : Index24} (hf : formatOf w = .b24) (hx : index24Of w = .ok x) :
    x.wf = true ∧ encodeAccess24 (fieldOp6 w) (fieldD w) ⟨fieldS w, x⟩ =
      tableWindow (8 * fetchLength w) w.toNat := by
  unfold index24Of at hx
  split at hx
  · next hie =>
    obtain ⟨n, hn, rfl⟩ := map_eq_ok hx
    exact imm24Of_window hf hie hn
  · next hie => cases hx; exact ⟨rfl, encodeR24_fields hf (eq_false_of_ne_true hie)⟩

/-- The short code of a 32-bit offset is the T field without its top bit (R70). -/
theorem imm32Of_ok {n : BitVec 4} (hn : imm32Of w = .ok n) : shortCodeWf n = true ∧ fieldT w = 1#1 ++ n := by
  unfold imm32Of at hn
  split at hn
  · next hcond =>
    cases hn
    obtain ⟨h31, hres⟩ := Bool.and_eq_true_iff.mp hcond
    have htop : fieldT w = BitVec.ofBool (w.getLsbD 31) ++ w.extractLsb' 27 4 := extract5_split w 27
    rw [shortCodeWf, extract22_extract w 27 (by decide), htop, h31]
    exact ⟨hres, rfl⟩
  · cases hn

/-- The offset of a 32-bit access (R63, R70). -/
theorem offset32Of_window {x : Offset32} (hf : formatOf w = .b32) (hC : w.getLsbD 26 = false)
    (hx : offset32Of w = .ok x) :
    x.wf = true ∧ encodeAccess32 (fieldOp6 w) (fieldD w) ⟨fieldS w, fieldR w, w.extractLsb' 24 2, x⟩ =
      tableWindow (8 * fetchLength w) w.toNat := by
  have hlen : fetchLength w = 4 := by simp [fetchLength, hf]
  have hw := eq_layout32 hf
  rw [ieBit, fieldOpC_split, hC] at hw
  rw [hlen, tableWindow_32]
  unfold offset32Of at hx
  split at hx
  · next hie =>
    obtain ⟨n, hn, rfl⟩ := map_eq_ok hx
    obtain ⟨hwf, htop⟩ := imm32Of_ok hn
    rw [hie, htop] at hw
    exact ⟨hwf, hw.symm⟩
  · next hie =>
    cases hx
    rw [eq_false_of_ne_true hie] at hw
    exact ⟨rfl, hw.symm⟩

/-! ## What decodes is an encoding -/

/-- `i` is well formed, and its window is `w` on the bytes that a fetch of `w` reads. -/
def IsWindowOf (w : BitVec 32) (i : Instr) : Prop := i.wf = true ∧ i.window = tableWindow (8 * fetchLength w) w.toNat

theorem isWindowOf_decode16 (hf : formatOf w = .b16) : IsWindowOf w (decode16 w) := by
  unfold IsWindowOf
  obtain ⟨ht, hwin, hwf⟩ | ⟨ht, hwin, hwf⟩ := decode16_row w
  · rw [hwin, hwf]; exact imm16Of_window hf ht
  · have hlen : fetchLength w = 2 := by simp [fetchLength, hf, ht]
    have htab := tableWindow_layout16 (fieldOp5 w) (fieldD w) (fieldS w) (w.extractLsb' 16 16)
    rw [← eq_layout16 hf] at htab
    rw [hwin, hlen, htab]
    exact ⟨hwf, rfl⟩

theorem isWindowOf_access24 {mk : Reg → Addr24 → Instr} {i : Instr} (hrow : AccessRow24 (fieldOp6 w) mk)
    (hf : formatOf w = .b24) (h : access24 mk w = .ok i) : IsWindowOf w i := by
  obtain ⟨x, hx, rfl⟩ := map_eq_ok h
  obtain ⟨hwin, hwf⟩ := hrow (fieldD w) ⟨fieldS w, x⟩
  rw [IsWindowOf, hwin, hwf]
  exact index24Of_window hf hx

theorem isWindowOf_alu24 {reg : Reg → Reg → Reg → Instr} {imm : Reg → Reg → Imm24 → Instr} {i : Instr}
    (hrow : AluRow24 (fieldOp6 w) reg imm) (hf : formatOf w = .b24) (h : alu24 reg imm w = .ok i) :
    IsWindowOf w i := by
  obtain ⟨hreg, himm⟩ := hrow
  unfold alu24 at h
  split at h
  · next hie =>
    obtain ⟨n, hn, rfl⟩ := map_eq_ok h
    obtain ⟨hwin, hwf⟩ := himm (fieldD w) (fieldS w) n
    rw [IsWindowOf, hwin, hwf]
    exact imm24Of_window hf hie hn
  · next hie =>
    cases h
    obtain ⟨hwin, hwf⟩ := hreg (fieldD w) (fieldS w) (fieldR w)
    exact ⟨hwf, hwin.trans (encodeR24_fields hf (eq_false_of_ne_true hie))⟩

theorem isWindowOf_access32 {mk : Reg → Addr32 → Instr} {i : Instr} (hrow : AccessRow32 (fieldOp6 w) mk)
    (hf : formatOf w = .b32) (h : access32 mk w = .ok i) : IsWindowOf w i := by
  unfold access32 at h
  split at h
  · cases h
  · next hC =>
    obtain ⟨x, hx, rfl⟩ := map_eq_ok h
    obtain ⟨hwin, hwf⟩ := hrow (fieldD w) ⟨fieldS w, fieldR w, w.extractLsb' 24 2, x⟩
    rw [IsWindowOf, hwin, hwf]
    exact offset32Of_window hf (eq_false_of_ne_true hC) hx

theorem isWindowOf_of_decodeWindow {i : Instr} (h : decodeWindow w = .ok i) : IsWindowOf w i := by
  unfold decodeWindow at h
  split at h
  · next hf => cases h; exact isWindowOf_decode16 hf
  · next hf =>
    obtain ⟨-, mk, hrow, hdec⟩ | ⟨-, reg, imm, hrow, hdec⟩ | ⟨-, -, hdec⟩ := decode24_row w
    · exact isWindowOf_access24 hrow hf (hdec ▸ h)
    · exact isWindowOf_alu24 hrow hf (hdec ▸ h)
    · cases hdec ▸ h
  · next hf =>
    obtain ⟨-, mk, hrow, hdec⟩ | ⟨-, hdec⟩ := decode32_row w
    · exact isWindowOf_access32 hrow hf (hdec ▸ h)
    · cases hdec ▸ h

end

/-! ## Other opcode maps keep all that a fetch reads but the opcode -/

theorem fetchLength_cases (w : BitVec 32) : fetchLength w = 4 ∨
    (fetchLength w = 2 ∧ formatOf w = .b16) ∨ (fetchLength w = 3 ∧ formatOf w = .b24) := by
  unfold fetchLength
  split
  · next hf => split_ifs <;> simp [hf]
  · next hf => split_ifs <;> simp [hf]
  · exact .inl rfl

/-- Renumbering a window's opcode and cutting the window after the bytes its fetch reads commute. -/
theorem ofDefault_tableWindow (m : OpMaps) (w : BitVec 32) :
    m.ofDefault (tableWindow (8 * fetchLength w) w.toNat) =
      tableWindow (8 * fetchLength w) (m.ofDefault w).toNat := by
  obtain h | ⟨h, hf⟩ | ⟨h, hf⟩ := fetchLength_cases w
  · rw [h, tableWindow_32, tableWindow_32]
  · rw [h, eq_layout16 hf, tableWindow_layout16, ofDefault_layout16, ofDefault_layout16, tableWindow_layout16]
  · rw [h, eq_layout24 hf, tableWindow_layout24, ofDefault_layout24, ofDefault_layout24, tableWindow_layout24]

/-- Settles O2: as the default maps read it the window is its instruction's, and renumbering moves only the opcode. -/
theorem acceptedWindowIsItsEncoding : Obligations.AcceptedWindowIsItsEncoding := by
  intro m w i h
  obtain ⟨hwf, hwin⟩ := isWindowOf_of_decodeWindow h
  refine ⟨hwf, ?_⟩
  rw [hwin, ofDefault_tableWindow, m.ofDefault_toDefault]
  rfl

/-! ## What is no instruction -/

theorem decodeWindowBy_renumbered24 (m : OpMaps) {w : BitVec 32} {o : BitVec 6} (hf : formatOf w = .b24)
    (ho : fieldOp6 w = renumber m.op24 o) : decodeWindowBy m w = decode24 (withOp6 w o) := by
  rw [decodeWindowBy, m.toDefault_b24 hf, ho, unrenumber_renumber, decodeWindow, formatOf_withOp6, hf]

theorem decodeWindowBy_renumbered32 (m : OpMaps) {w : BitVec 32} {o : BitVec 9} (hf : formatOf w = .b32)
    (ho : fieldOp9 w = renumber m.op32 o) : decodeWindowBy m w = decode32 (withOp9 w o) := by
  rw [decodeWindowBy, m.toDefault_b32 hf, ho, unrenumber_renumber, decodeWindow, formatOf_withOp9, hf]

/-- The low part of `op9` is `op6`, its top bit that of `opC`. -/
theorem op9_append (opC : BitVec 3) (o : BitVec 6) :
    (opC ++ o).extractLsb' 0 6 = o ∧ (opC ++ o).getLsbD 8 = opC.msb := by
  constructor
  · simp only [BitVec.extractLsb'_append_eq_ite]; simp
  · rw [BitVec.getLsbD_append, BitVec.msb_eq_getLsbD_last]; simp

/-- The numbers that are neither an access nor an operation of OPMAP24 are those of R75 (a) and from 32 up. -/
theorem unassigned24_iff : ∀ o : BitVec 6,
    (o ∈ [2#6, 3#6, 6#6, 7#6, 10#6, 11#6, 14#6, 15#6, 18#6, 19#6, 22#6, 23#6] ∨ 32 ≤ o.toNat) ↔
      o ∉ accessOps ∧ o ∉ aluOps := by decide

/-- Settles O6: with the number read back, OPMAP24 and OPMAP32 have no row for it, or `opC[2]` is set. -/
theorem unassignedOpcodesAreRejected : Obligations.UnassignedOpcodesAreRejected := by
  constructor
  · intro m w o hf ho hun
    obtain ⟨hacc, halu⟩ := (unassigned24_iff o).mp hun
    rw [decodeWindowBy_renumbered24 m hf ho]
    obtain ⟨hmem, -⟩ | ⟨hmem, -⟩ | ⟨-, -, hdec⟩ := decode24_row (withOp6 w o)
    · rw [fieldOp6_withOp6] at hmem; exact absurd hmem hacc
    · rw [fieldOp6_withOp6] at hmem; exact absurd hmem halu
    · exact hdec
  · intro m w opC o hf ho hun
    obtain ⟨hlow, htop⟩ := op9_append opC o
    rw [decodeWindowBy_renumbered32 m hf ho]
    obtain ⟨hmem, mk, -, hdec⟩ | ⟨-, hdec⟩ := decode32_row (withOp9 w (opC ++ o))
    · rw [fieldOp6_withOp9, hlow] at hmem
      obtain hacc | hC := hun
      · exact absurd hmem hacc
      · rw [hdec, access32, opC2_withOp9, htop, if_pos hC]
    · exact hdec

/-- The codes `110xx`: the top bit and the two below. -/
theorem code110_iff : ∀ x : BitVec 5,
    x.extractLsb' 2 3 = 0b110#3 ↔ x.getLsbD 4 = true ∧ x.extractLsb' 2 2 = 0b10#2 := by decide

/-- The reserved codes of the 24-bit format, in its R field (R69). -/
theorem imm24Of_reserved {w : BitVec 32} (h : (fieldR w).extractLsb' 2 3 = 0b110#3) :
    imm24Of w = .error .reservedImmediate := by
  obtain ⟨htop, hlow⟩ := (code110_iff _).mp h
  have h23 : w.getLsbD 23 = true := by
    rw [fieldR, BitVec.getLsbD_extractLsb'] at htop; exact htop
  have h21 : w.extractLsb' 21 2 = 0b10#2 := by
    rw [fieldR, extract22_extract w 19 (by decide)] at hlow; exact hlow
  rw [imm24Of, if_pos h23, if_pos h21]

/-- The reserved codes of the 32-bit format, in its T field (R70). -/
theorem imm32Of_reserved {w : BitVec 32} (h : (fieldT w).extractLsb' 2 3 = 0b110#3 ∨ (fieldT w).msb = false) :
    imm32Of w = .error .reservedImmediate := by
  cases hx : imm32Of w with
  | ok n =>
    obtain ⟨hwf, htop⟩ := imm32Of_ok hx
    have hno : ∀ n : BitVec 4, shortCodeWf n = true → (1#1 ++ n : BitVec 5).extractLsb' 2 3 ≠ 0b110#3 := by decide
    have hmsb : ∀ n : BitVec 4, (1#1 ++ n : BitVec 5).msb ≠ false := by decide
    rw [htop] at h
    exact (h.elim (hno n hwf) (hmsb n)).elim
  | error e =>
    unfold imm32Of at hx
    split at hx <;> cases hx
    rfl

/-- The opcodes of OPMAP24 that have a row. -/
theorem assigned24 : ∀ o : BitVec 6,
    o ∉ [2#6, 3#6, 6#6, 7#6, 10#6, 11#6, 14#6, 15#6, 18#6, 19#6, 22#6, 23#6] → o.toNat < 32 →
      o ∈ accessOps ∨ o ∈ aluOps := by decide

/-- Settles O7: with the number read back there is a row for it, and the row reads the immediate. -/
theorem reservedImmediateCodesAreRejected : Obligations.ReservedImmediateCodesAreRejected := by
  constructor
  · intro m w o hf ho hass hlt hie hres
    have hn : imm24Of (withOp6 w o) = .error .reservedImmediate := by
      rw [imm24Of_withOp6]; exact imm24Of_reserved hres
    have hie' : fieldIe (withOp6 w o) = true := by rw [fieldIe_withOp6]; exact hie
    rw [decodeWindowBy_renumbered24 m hf ho]
    obtain ⟨-, mk, -, hdec⟩ | ⟨-, reg, imm, -, hdec⟩ | ⟨hacc, halu, -⟩ := decode24_row (withOp6 w o)
    · rw [hdec, access24, index24Of, if_pos hie', hn]; rfl
    · rw [hdec, alu24, if_pos hie', hn]; rfl
    · rw [fieldOp6_withOp6] at hacc halu
      exact ((assigned24 o hass hlt).elim hacc halu).elim
  · intro m w opC o hf ho hass hC hie hres
    obtain ⟨hlow, htop⟩ := op9_append opC o
    have hn : imm32Of (withOp9 w (opC ++ o)) = .error .reservedImmediate := by
      rw [imm32Of_withOp9]; exact imm32Of_reserved hres
    have hie' : fieldIe (withOp9 w (opC ++ o)) = true := by rw [fieldIe_withOp9]; exact hie
    rw [decodeWindowBy_renumbered32 m hf ho]
    obtain ⟨-, mk, -, hdec⟩ | ⟨hacc, -⟩ := decode32_row (withOp9 w (opC ++ o))
    · rw [hdec, access32, opC2_withOp9, htop, if_neg (ne_true_of_eq_false hC), offset32Of, if_pos hie', hn]; rfl
    · rw [fieldOp6_withOp9, hlow] at hacc
      exact absurd hass hacc

/-- Settles O59: `ofDefault` renumbers the opcode within its format, and `toDefault` reads it back. -/
theorem opcodeMapsMoveOnlyOpcodes : Obligations.OpcodeMapsMoveOnlyOpcodes := by
  intro m w
  refine ⟨by rw [decodeWindowBy, m.toDefault_ofDefault], m.formatOf_ofDefault w,
    fun hf => ?_, fun hf => ?_, fun hf => ?_⟩
  · rw [m.ofDefault_b16 hf]
    refine ⟨fieldOp5_withOp5 _ _, fun k hk => ?_⟩
    rw [getLsbD_withOp5, if_neg (by omega)]
  · rw [m.ofDefault_b24 hf]
    refine ⟨fieldOp6_withOp6 _ _, fun k hk hk' => ?_⟩
    rw [getLsbD_withOp6, if_neg (by omega), if_neg (by omega)]
  · rw [m.ofDefault_b32 hf]
    refine ⟨fieldOp9_withOp9 _ _, fun k hk hk' hk'' => ?_⟩
    rw [getLsbD_withOp9, if_neg (by omega), if_neg (by omega), if_neg (by omega)]

/-- Settles O8, by running the decoder on each word. -/
theorem writtenOutWordsDecode : Obligations.WrittenOutWordsDecode := by
  refine ⟨?_, ?_, ?_, ?_, ?_⟩ <;> decide

end Sys2Proof.Laws.Codec
end

section
/-! PROOFS. What an instruction can do: the effects and the stops, and that each shared action has no others. -/

namespace Sys2Proof.Laws.Effects

open Sys2Proof Sys2Proof.Machine

/-! ## What a residue write leaves -/

section
variable (s : State) (o : Option Cell)

@[simp] theorem writeRes_pc : (s.writeRes o).pc = s.pc := by cases o <;> rfl
@[simp] theorem writeRes_halted : (s.writeRes o).halted = s.halted := by cases o <;> rfl
@[simp] theorem writeRes_iregs : (s.writeRes o).iregs = s.iregs := by cases o <;> rfl
@[simp] theorem writeRes_mem : (s.writeRes o).mem = s.mem := by cases o <;> rfl
@[simp] theorem writeRes_outputs : (s.writeRes o).outputs = s.outputs := by cases o <;> rfl
@[simp] theorem writeRes_inputDraws : (s.writeRes o).inputDraws = s.inputDraws := by cases o <;> rfl
@[simp] theorem writeRes_haltCause : (s.writeRes o).haltCause = s.haltCause := by cases o <;> rfl
@[simp] theorem writeRes_fetchImage : (s.writeRes o).fetchImage = s.fetchImage := by cases o <;> rfl
@[simp] theorem writeRes_params : (s.writeRes o).params = s.params := by cases o <;> rfl

end

/-! ## The byte loads -/

/-- LDU8, LDS8, FLD8 and F2LD8 as one action: `conv` is what each makes of the byte. -/
def loadByte (conv : Byte → Cell) (d : Reg) (ea : Except Stop Word) (npc : Word) (s : State) : Except Stop State := do
  rejectPc d
  let b ← s.load8 (← ea)
  return (s.writeReg d (conv b)).setPc npc

section
variable (d : Reg) (ea : Except Stop Word) (npc : Word) (s : State)

theorem doLdu8_eq_loadByte : doLdu8 d ea npc s = loadByte (fun b => ⟨b.setWidth 16, .u, 0#2⟩) d ea npc s := rfl

theorem doLds8_eq_loadByte : doLds8 d ea npc s = loadByte (fun b => ⟨b.signExtend 16, .s, 0#2⟩) d ea npc s := rfl

theorem doFld8_eq_loadByte (t : FloatTy) :
    doFld8 t d ea npc s = loadByte (fun b => floatCell t (Config.floatFromMem8 t b)) d ea npc s := rfl

end

/-! ## Actions that answer or stop -/

/-- An action answers something of which `P` holds, or stops for a reason of which `Q` holds. -/
def Yields {α : Type} (P : α → Prop) (Q : Stop → Prop) : Except Stop α → Prop
  | .ok a => P a
  | .error e => Q e

theorem Yields.bind {α β : Type} {P : α → Prop} {P' : β → Prop} {Q : Stop → Prop} {x : Except Stop α}
    {f : α → Except Stop β} (hx : Yields P Q x) (hf : ∀ a, P a → Yields P' Q (f a)) : Yields P' Q (x >>= f) := by
  cases x with
  | error e => exact hx
  | ok a => exact hf a hx

/-- The reasons an instruction has to stop: a halt, a byte that does not exist, D = 28 in an arithmetic instruction. -/
inductive MayStop (i : Instr) (s : State) : Stop → Prop where
  | halt (c : HaltCause) : MayStop i s (.halt c)
  | absent {a : Word} (h : Params.present s.params a = false) : MayStop i s (.fault (.absentByte a))
  | residue (h : arithDestOf i = some resReg) : MayStop i s (.refuse .residueWrittenTwice)

/-- What an instruction that does not stop makes of the state. -/
inductive Effect (i : Instr) (s : State) : State → Prop where
  /-- A write to D and to the Residue register; the pc is `npc` but in a branch and where D = 31. -/
  | write {d : Reg} {c : Cell} {o : Option Cell} {v : Word} (hd : destOf i = some d)
      (ho : o.isSome = true → writesResidue i = true) (hv : isBranch i = true ∨ d = pcReg ∨ v = npcOf i s) :
      Effect i s (((s.writeRes o).writeReg d c).setPc v)
  /-- A residue write alone: CMP. -/
  | compare {o : Option Cell} (ho : writesResidue i = true) : Effect i s ((s.writeRes o).setPc (npcOf i s))
  /-- A conditional branch, taken or not. -/
  | branch {v : Word} (hb : isBranch i = true) : Effect i s (s.setPc v)
  /-- Another memory, canonical if the old one was. -/
  | store {m : Memory} (hs : storesMemory i = true) (hm : s.mem.wf = true → m.wf = true) :
      Effect i s ({ s with mem := m }.setPc (npcOf i s))
  /-- INN from a port: one draw, and a write to D. -/
  | input {d : Reg} {c : Cell} {k : Fin 16} (hd : destOf i = some d) (hp : reachesPorts i = true) :
      Effect i s (((s.portIn k).2.writeReg d c).setPc (npcOf i s))
  /-- OUTN to a port. -/
  | output {k : Fin 16} {v : Word} (hp : reachesPorts i = true) : Effect i s ((s.portOut k v).setPc (npcOf i s))
  /-- OUTN to an internal register. -/
  | ireg {k : Fin 15} {v : Word} (hp : reachesPorts i = true) : Effect i s ((s.writeIreg k v).setPc (npcOf i s))

/-- The action of instruction `i` begun in `s` does what an instruction can do. -/
abbrev Behaves (i : Instr) (s : State) (x : Except Stop State) : Prop := Yields (Effect i s) (MayStop i s) x

section
variable {i : Instr} {s : State} {d : Reg}

/-! ## The checks and the data accesses -/

theorem rejectPc_yields (d : Reg) : Yields (fun _ => d ≠ pcReg) (MayStop i s) (rejectPc d) := by
  by_cases h : d = pcReg
  · rw [h, rejectPc_pc]; exact .halt _
  · rw [rejectPc_ne h]; exact h

theorem requireByte_yields {p : Params} (a : Word) (hp : p = s.params) :
    Yields (fun _ => True) (MayStop i s) (requireByte p a) := by
  subst hp
  unfold requireByte
  split
  · trivial
  · next h => exact .absent (eq_false_of_ne_true h)

theorem requireAligned_yields (p : Params) (a : Word) :
    Yields (fun _ => True) (MayStop i s) (requireAligned p a) := by
  obtain h | ⟨h, -⟩ := requireAligned_cases p a <;> rw [h]
  · trivial
  · exact .halt _

theorem load8_yields (a : Word) : Yields (fun _ => True) (MayStop i s) (s.load8 a) :=
  .bind (requireByte_yields a rfl) fun _ _ => trivial

theorem load16_yields (a : Word) : Yields (fun _ => True) (MayStop i s) (s.load16 a) :=
  .bind (requireAligned_yields _ a) fun _ _ => .bind (requireByte_yields a rfl) fun _ _ =>
    .bind (requireByte_yields _ rfl) fun _ _ => trivial

/-- What a store leaves: another memory, canonical if the old one was. -/
def Stored (s t : State) : Prop := ∃ m : Memory, t = { s with mem := m } ∧ (s.mem.wf = true → m.wf = true)

theorem store8_yields (a : Word) (b : Byte) : Yields (Stored s) (MayStop i s) (s.store8 a b) :=
  .bind (requireByte_yields a rfl) fun _ _ => ⟨_, rfl, Memory.wf_write a b⟩

theorem store16_yields {t : State} (a v : Word) (ht : Stored s t) :
    Yields (Stored s) (MayStop i s) (t.store16 a v) := by
  obtain ⟨m, rfl, hm⟩ := ht
  exact .bind (requireAligned_yields _ a) fun _ _ => .bind (requireByte_yields a rfl) fun _ _ =>
    .bind (requireByte_yields _ rfl) fun _ _ => ⟨_, rfl, fun h => Memory.wf_write16 a v (hm h)⟩

theorem Stored.refl (s : State) : Stored s s := ⟨s.mem, rfl, id⟩

theorem Stored.effect {t : State} (hs : storesMemory i = true) (ht : Stored s t) :
    Effect i s (t.setPc (npcOf i s)) := by
  obtain ⟨m, rfl, hm⟩ := ht
  exact .store hs hm

theorem ea32_yields (npc ds : Word) (a : Addr32) : Yields (fun _ => True) (MayStop i s) (ea32 s npc ds a) := by
  obtain ⟨e, h⟩ | ⟨-, h⟩ := ea32_cases s npc ds a <;> rw [h]
  · trivial
  · exact .halt _

/-! ## The forms of a write to D -/

theorem Effect.writeReg (c : Cell) (hd : destOf i = some d) :
    Effect i s ((s.writeReg d c).setPc (npcOf i s)) :=
  .write (o := none) hd (fun h => by cases h) (.inr (.inr rfl))

theorem Effect.writeOrJump (c : Cell) (hd : destOf i = some d) : Effect i s (s.writeOrJump d c (npcOf i s)) := by
  rw [State.writeOrJump_eq]
  refine .write (o := none) hd (fun h => by cases h) (.inr ?_)
  split <;> simp_all

/-! ## The shared actions -/

theorem writeD_behaves (c : Cell) (hd : destOf i = some d) : Behaves i s (writeD d c (npcOf i s) s) :=
  .bind (rejectPc_yields d) fun _ _ => .writeReg c hd

theorem doLogic_behaves (f : Word → Word → Word) (a : Word) (b : Cell) (hd : destOf i = some d) :
    Behaves i s (doLogic f d a b (npcOf i s) s) :=
  .bind (rejectPc_yields d) fun _ _ => .writeReg _ hd

/-- An instruction of 10_state.md R16 that writes D has its D field where `destOf` and `arithDestOf` find it. -/
def IsArith (i : Instr) (d : Reg) : Prop := destOf i = some d ∧ arithDestOf i = some d

theorem IsArith.writesResidue (h : IsArith i d) : writesResidue i = true := by
  obtain ⟨-, ha⟩ := h
  unfold Machine.writesResidue
  split
  · rfl
  · rfl
  · rfl
  · rfl
  · rw [ha]; rfl

theorem doAdd_behaves (a b : Cell) (h : IsArith i d) : Behaves i s (doAdd d a b (npcOf i s) s) := by
  obtain ⟨r, -, -, hx⟩ | hx | ⟨rfl, hx⟩ := doAdd_cases d a b (npcOf i s) s <;> rw [hx]
  · rw [State.writeOrJump_eq]
    refine Effect.write h.1 (fun _ => h.writesResidue) (.inr ?_)
    split <;> simp_all
  · exact .halt _
  · exact .residue h.2

theorem doSub_behaves (a b : Cell) (h : IsArith i d) : Behaves i s (doSub d a b (npcOf i s) s) := by
  obtain ⟨r, -, -, -, hx⟩ | ⟨c, hx⟩ | ⟨rfl, hx⟩ := doSub_cases d a b (npcOf i s) s <;> rw [hx]
  · exact Effect.write h.1 (fun _ => h.writesResidue) (.inr (.inr rfl))
  · exact .halt _
  · exact .residue h.2

theorem doMul_behaves (a b : Cell) (h : IsArith i d) : Behaves i s (doMul d a b (npcOf i s) s) := by
  obtain ⟨r, -, -, hx⟩ | hx | ⟨rfl, hx⟩ := doMul_cases d a b (npcOf i s) s <;> rw [hx]
  · rw [State.writeOrBlock_eq]; exact Effect.write h.1 (fun _ => h.writesResidue) (.inr (.inr rfl))
  · exact .halt _
  · exact .residue h.2

theorem doDiv_behaves (a b : Cell) (h : IsArith i d) : Behaves i s (doDiv d a b (npcOf i s) s) := by
  obtain ⟨r, -, -, -, hx⟩ | hx | ⟨rfl, hx⟩ := doDiv_cases d a b (npcOf i s) s <;> rw [hx]
  · rw [State.writeOrBlock_eq]; exact Effect.write h.1 (fun _ => h.writesResidue) (.inr (.inr rfl))
  · exact .halt _
  · exact .residue h.2

theorem doCmp_behaves (a b : Cell) (h : writesResidue i = true) : Behaves i s (doCmp a b (npcOf i s) s) := by
  obtain ⟨r, -, hx⟩ | hx := doCmp_cases a b (npcOf i s) s <;> rw [hx]
  · exact Effect.compare h
  · exact .halt _

section
variable {ea : Except Stop Word} (hea : Yields (fun _ => True) (MayStop i s) ea)
include hea

theorem loadByte_behaves (conv : Byte → Cell) (hd : destOf i = some d) :
    Behaves i s (loadByte conv d ea (npcOf i s) s) :=
  .bind (rejectPc_yields d) fun _ _ => .bind hea fun a _ => .bind (load8_yields a) fun _ _ => .writeReg _ hd

theorem doFld16_behaves (t : FloatTy) (hd : destOf i = some d) : Behaves i s (doFld16 t d ea (npcOf i s) s) :=
  .bind (rejectPc_yields d) fun _ _ => .bind hea fun a _ => .bind (load16_yields a) fun _ _ => .writeReg _ hd

theorem doLd16_behaves (t : Ty) (hd : destOf i = some d) : Behaves i s (doLd16 t d ea (npcOf i s) s) :=
  .bind hea fun a _ => .bind (load16_yields a) fun _ _ => .writeOrJump _ hd

theorem doLea_behaves (hd : destOf i = some d) : Behaves i s (doLea d ea (npcOf i s) s) :=
  .bind hea fun _ _ => .writeOrJump _ hd

theorem doSt8_behaves (d : Reg) (hs : storesMemory i = true) : Behaves i s (doSt8 d ea (npcOf i s) s) :=
  .bind hea fun a _ => .bind (store8_yields a _) fun _ ht => ht.effect hs

theorem doSt16_behaves (d : Reg) (hs : storesMemory i = true) : Behaves i s (doSt16 d ea (npcOf i s) s) :=
  .bind hea fun a _ => .bind (store16_yields a _ (.refl s)) fun _ ht => ht.effect hs

end

end

end Sys2Proof.Laws.Effects
end

section
/-! PROOFS. The inversion of `exec`, and what every effect keeps. -/

namespace Sys2Proof.Laws.Effects

open Sys2Proof Sys2Proof.Machine

/-! ## Every instruction -/

/-- INN's action (40_io.md R90). -/
theorem inn_behaves (d : Reg) (n : Imm16) (s : State) :
    ∃ x, exec (.inn d n) s = settle s x ∧ Behaves (.inn d n) s x := by
  refine ⟨_, rfl, .bind (rejectPc_yields d) fun _ _ => ?_⟩
  cases ioTarget (n16Of16 n) with
  | port k => exact .input rfl rfl
  | ireg k => exact .writeReg _ rfl
  | memory a => exact .bind (load16_yields a) fun _ _ => .writeReg _ rfl

/-- OUTN's action (40_io.md R91). -/
theorem outn_behaves (d : Reg) (n : Imm16) (s : State) :
    ∃ x, exec (.outn d n) s = settle s x ∧ Behaves (.outn d n) s x := by
  refine ⟨_, rfl, ?_⟩
  cases ioTarget (n16Of16 n) with
  | port k => exact .output rfl
  | ireg k => exact .ireg rfl
  | memory a => exact .bind (store16_yields a _ (.refl s)) fun _ ht => ht.effect rfl

theorem mov_behaves (d r : Reg) (s : State) : ∃ x, exec (.mov d r) s = settle s x ∧ Behaves (.mov d r) s x := by
  refine ⟨_, rfl, ?_⟩
  split
  · exact .halt _
  · exact .writeOrJump _ rfl

theorem ldtn_behaves (d : Reg) (n : Imm16) (s : State) :
    ∃ x, exec (.ldtn d n) s = settle s x ∧ Behaves (.ldtn d n) s x :=
  ⟨_, rfl, .bind (rejectPc_yields d) fun _ _ => .bind (load16_yields _) fun _ _ => .bind (load16_yields _) fun _ _ =>
    .writeReg _ rfl⟩

theorem sttn_behaves (d : Reg) (n : Imm16) (s : State) :
    ∃ x, exec (.sttn d n) s = settle s x ∧ Behaves (.sttn d n) s x :=
  ⟨_, rfl, .bind (store16_yields _ _ (.refl s)) fun _ ht => .bind (store16_yields _ _ ht) fun _ ht' => ht'.effect rfl⟩

/-- The execution of every instruction is an action that does what an instruction can do. -/
theorem exec_behaves (i : Instr) (s : State) : ∃ x, exec i s = settle s x ∧ Behaves i s x := by
  cases i with
  | inn d n => exact inn_behaves d n s
  | outn d n => exact outn_behaves d n s
  | bsrn d n => exact ⟨.ok _, rfl, .write (o := none) rfl (fun h => by cases h) (.inl rfl)⟩
  | brzn d n | brnzn d n | brpn d n | brmn d n => exact ⟨.ok _, rfl, .branch rfl⟩
  | mov d r => exact mov_behaves d r s
  | add d _ | addi d _ | add_24 d _ _ | addi_24 d _ _ => exact ⟨_, rfl, doAdd_behaves _ _ ⟨rfl, rfl⟩⟩
  | sub d _ | subi d _ | sub_24 d _ _ | subi_24 d _ _ => exact ⟨_, rfl, doSub_behaves _ _ ⟨rfl, rfl⟩⟩
  | mul d _ | muli d _ | mul_24 d _ _ | muli_24 d _ _ => exact ⟨_, rfl, doMul_behaves _ _ ⟨rfl, rfl⟩⟩
  | div d _ | divi d _ | div_24 d _ _ | divi_24 d _ _ => exact ⟨_, rfl, doDiv_behaves _ _ ⟨rfl, rfl⟩⟩
  | cmp _ _ | cmpi _ _ | cmp_24 _ _ _ | cmpi_24 _ _ _ => exact ⟨_, rfl, doCmp_behaves _ _ rfl⟩
  | and d _ | andi d _ | and_24 d _ _ | andi_24 d _ _ => exact ⟨_, rfl, doLogic_behaves _ _ _ rfl⟩
  | or d _ | ori d _ | or_24 d _ _ | ori_24 d _ _ => exact ⟨_, rfl, doLogic_behaves _ _ _ rfl⟩
  | xor d _ | xori d _ | xor_24 d _ _ | xori_24 d _ _ => exact ⟨_, rfl, doLogic_behaves _ _ _ rfl⟩
  | ldui d n | ldsi d n => exact ⟨.ok _, rfl, .writeOrJump _ rfl⟩
  | ldfi d n | ldf2i d n | shftn d n | extctn d n => exact ⟨_, rfl, writeD_behaves _ rfl⟩
  | ldtn d n => exact ldtn_behaves d n s
  | sttn d n => exact sttn_behaves d n s
  | ldu8_24 d a | lds8_24 d a | fld8_24 d a | f2ld8_24 d a =>
    exact ⟨loadByte _ _ _ _ _, rfl, loadByte_behaves (ea := .ok _) trivial _ rfl⟩
  | ldu16_24 d a | lds16_24 d a => exact ⟨_, rfl, doLd16_behaves (ea := .ok _) trivial _ rfl⟩
  | fld16_24 d a | f2ld16_24 d a => exact ⟨_, rfl, doFld16_behaves (ea := .ok _) trivial _ rfl⟩
  | lea8_24 d a | lea16_24 d a => exact ⟨_, rfl, doLea_behaves (ea := .ok _) trivial rfl⟩
  | st8_24 d a => exact ⟨_, rfl, doSt8_behaves (ea := .ok _) trivial d rfl⟩
  | st16_24 d a => exact ⟨_, rfl, doSt16_behaves (ea := .ok _) trivial d rfl⟩
  | ldu8_32 d a | lds8_32 d a | fld8_32 d a | f2ld8_32 d a =>
    exact ⟨loadByte _ _ _ _ _, rfl, loadByte_behaves (ea32_yields _ _ a) _ rfl⟩
  | ldu16_32 d a | lds16_32 d a => exact ⟨_, rfl, doLd16_behaves (ea32_yields _ _ a) _ rfl⟩
  | fld16_32 d a | f2ld16_32 d a => exact ⟨_, rfl, doFld16_behaves (ea32_yields _ _ a) _ rfl⟩
  | lea8_32 d a | lea16_32 d a => exact ⟨_, rfl, doLea_behaves (ea32_yields _ _ a) rfl⟩
  | st8_32 d a => exact ⟨_, rfl, doSt8_behaves (ea32_yields _ _ a) d rfl⟩
  | st16_32 d a => exact ⟨_, rfl, doSt16_behaves (ea32_yields _ _ a) d rfl⟩

section
variable {i : Instr} {s t : State}

/-- Everything a next state can be: an effect of the instruction, or the state it began in, halted. -/
theorem exec_next (h : exec i s = .next t) : Effect i s t ∨ ∃ c, t = s.haltWith c := by
  obtain ⟨x, hx, hb⟩ := exec_behaves i s
  obtain rfl | ⟨c, -, ht⟩ := settle_next (hx.symm.trans h)
  · exact .inl hb
  · exact .inr ⟨c, ht⟩

/-- A fault is an access to a byte the platform does not have. -/
theorem exec_fault {r : Fault} (h : exec i s = .fault r) :
    ∃ a, r = .absentByte a ∧ Params.present s.params a = false := by
  obtain ⟨x, hx, hb⟩ := exec_behaves i s
  obtain rfl := settle_fault (hx.symm.trans h)
  cases hb with
  | absent ha => exact ⟨_, rfl, ha⟩

theorem exec_refused {r : Refusal} (h : exec i s = .refused r) :
    r = .residueWrittenTwice ∧ arithDestOf i = some resReg := by
  obtain ⟨x, hx, hb⟩ := exec_behaves i s
  obtain rfl := settle_refused (hx.symm.trans h)
  cases hb with
  | residue hd => exact ⟨rfl, hd⟩

/-! ## What every effect keeps -/

/-- No effect touches the halt, the parameters or the launch's bytes. -/
theorem Effect.kept (h : Effect i s t) :
    t.halted = s.halted ∧ t.haltCause = s.haltCause ∧ t.params = s.params ∧ t.fetchImage = s.fetchImage := by
  cases h <;> simp

/-- An effect is at most one output, after all earlier ones. -/
theorem Effect.outputs (h : Effect i s t) : ∃ l : List PortWrite, l.length ≤ 1 ∧ t.outputs = s.outputs ++ l := by
  cases h with
  | @output k v _ => exact ⟨[⟨k, v⟩], le_rfl, rfl⟩
  | _ => exact ⟨[], Nat.zero_le _, by simp⟩

theorem Effect.mem_wf (h : Effect i s t) (hm : s.mem.wf = true) : t.mem.wf = true := by
  cases h with
  | store _ hs => exact hs hm
  | _ => simpa using hm

/-- Internal registers hold no more than IREG_WIDTH bits after an effect if they did before (10_state.md R25). -/
theorem Effect.iregs_width (h : Effect i s t) (hw : ∀ k : Fin 15, (s.iregs[k]).toNat < 2 ^ s.params.iregWidth) :
    ∀ k : Fin 15, (t.iregs[k]).toNat < 2 ^ t.params.iregWidth := by
  cases h with
  | @ireg k v _ =>
    intro j
    simp only [State.setPc_iregs, State.setPc_params, State.writeIreg_iregs, State.writeIreg_params, Fin.getElem_fin,
      Vector.getElem_set]
    split
    · rw [BitVec.toNat_ofNat]
      exact lt_of_le_of_lt (Nat.mod_le _ _) (Nat.mod_lt _ (Nat.two_pow_pos _))
    · exact hw j
  | _ => simpa using hw

theorem Effect.inv (h : Effect i s t) (hs : s.Inv) : t.Inv := by
  obtain ⟨hmem, himg, hlabel, hiregs, hpc⟩ := hs
  obtain ⟨hh, hc, hp, hf⟩ := h.kept
  exact ⟨h.mem_wf hmem, hf ▸ himg, by rw [hc, hh]; exact hlabel, h.iregs_width hiregs, hp ▸ hpc⟩

/-- A halt keeps the invariant: it comes with its label. -/
theorem inv_haltWith (c : HaltCause) (hs : s.Inv) : (s.haltWith c).Inv := by
  obtain ⟨hmem, himg, -, hiregs, hpc⟩ := hs
  exact ⟨hmem, himg, rfl, hiregs, hpc⟩

end

/-! ## The fetch and the step -/

theorem fetchByte_yields {i : Instr} (s : State) (a : Word) : Yields (fun _ => True) (MayStop i s) (s.fetchByte a) :=
  .bind (requireByte_yields a rfl) fun _ _ => trivial

/-- A fetch stops for reasons that every instruction has. -/
theorem fetch_yields (i : Instr) (s : State) : Yields (fun _ => True) (MayStop i s) s.fetch := by
  unfold State.fetch
  split
  · exact .halt _
  · refine .bind (fetchByte_yields s _) fun b0 _ => .bind (fetchByte_yields s _) fun b1 _ => ?_
    split
    · trivial
    · refine .bind (fetchByte_yields s _) fun b2 _ => ?_
      split
      · trivial
      · exact .bind (fetchByte_yields s _) fun b3 _ => trivial

end Sys2Proof.Laws.Effects
end

section
/-! PROOFS. Every step and every instruction: the invariant, the halt, faults and refusals, and what is left alone. -/

namespace Sys2Proof.Laws.Effects

open Sys2Proof Sys2Proof.Machine

theorem fetchDecode_yields (i : Instr) (s : State) : Yields (fun _ => True) (MayStop i s) s.fetchDecode := by
  refine .bind (fetch_yields i s) fun bs _ => ?_
  split
  · trivial
  · exact .halt _

section
variable {s t : State}

/-- What a step answers of a running machine: the execution of an instruction, or the halt or fault of its fetch. -/
theorem step_running (h : s.halted = false) :
    (∃ i, step s = exec i s) ∨ (∃ c, step s = .next (s.haltWith c)) ∨
      ∃ a, step s = .fault (.absentByte a) ∧ Params.present s.params a = false := by
  -- MOV stands for any instruction that is never refused: a fetch has none of the other stops.
  have hf := fetchDecode_yields (.mov 0 0) s
  unfold step
  rw [if_neg (ne_true_of_eq_false h)]
  cases hd : s.fetchDecode with
  | ok i => exact .inl ⟨i, rfl⟩
  | error e =>
    rw [hd] at hf
    cases hf with
    | halt c => exact .inr (.inl ⟨c, rfl⟩)
    | absent ha => exact .inr (.inr ⟨_, rfl, ha⟩)
    | residue hr => cases hr

theorem step_halted (h : s.halted = true) : step s = .next s := by
  unfold step; rw [if_pos h]

/-- Everything the next state can be. -/
theorem step_next (h : step s = .next t) :
    (s.halted = true ∧ t = s) ∨ (s.halted = false ∧ ((∃ i, Effect i s t) ∨ ∃ c, t = s.haltWith c)) := by
  cases hh : s.halted with
  | true => rw [step_halted hh] at h; cases h; exact .inl ⟨rfl, rfl⟩
  | false =>
    refine .inr ⟨rfl, ?_⟩
    obtain ⟨i, hi⟩ | ⟨c, hc⟩ | ⟨a, ha, -⟩ := step_running hh
    · obtain he | hc := exec_next (hi.symm.trans h)
      · exact .inl ⟨i, he⟩
      · exact .inr hc
    · exact .inr ⟨c, Host.Outcome.next.inj (h.symm.trans hc)⟩
    · cases ha.symm.trans h

end

/-! ## The statements about steps -/

/-- Settles O15: an unchanged state, an effect and a halt each keep the invariant. -/
theorem everyStepKeepsTheInvariant : Obligations.EveryStepKeepsTheInvariant := by
  intro s t hs h
  obtain ⟨-, rfl⟩ | ⟨-, ⟨i, he⟩ | ⟨c, rfl⟩⟩ := step_next h
  · exact hs
  · exact he.inv hs
  · exact inv_haltWith c hs

/-- Settles O14: an effect leaves a running machine running. -/
theorem haltIsPrecise : Obligations.HaltIsPrecise := by
  intro s t hs h ht
  obtain ⟨hh, -⟩ | ⟨-, ⟨i, he⟩ | ⟨c, rfl⟩⟩ := step_next h
  · rw [hs] at hh; cases hh
  · obtain ⟨hkept, -⟩ := he.kept
    rw [hkept, hs] at ht; cases ht
  · exact ⟨c, rfl⟩

/-- A platform without holes has every byte (20_memory.md R49). -/
theorem present_of_no_holes {p : Params} (h : p.absent = []) (a : Word) : Params.present p a = true := by
  simp [Params.present, h]

/-- Settles O18: fetch and execution fault only on a byte that is absent. -/
theorem noFaultWhereEveryByteExists : Obligations.NoFaultWhereEveryByteExists := by
  intro s r habs h
  have hnone : ∀ a, Params.present s.params a ≠ false := fun a => by rw [present_of_no_holes habs a]; decide
  cases hh : s.halted with
  | true => rw [step_halted hh] at h; cases h
  | false =>
    obtain ⟨i, hi⟩ | ⟨c, hc⟩ | ⟨a, -, ha⟩ := step_running hh
    · obtain ⟨a, -, ha⟩ := exec_fault (hi.symm.trans h)
      exact hnone a ha
    · cases hc.symm.trans h
    · exact hnone a ha

/-- Settles O19: of the stops only D = 28 in an arithmetic instruction is a refusal. -/
theorem onlyDoubleResidueWritesAreRefused : Obligations.OnlyDoubleResidueWritesAreRefused :=
  fun _ _ _ h => exec_refused h

/-- Settles O25: an unchanged state and a halt output nothing, an effect at most once. -/
theorem outputsAreRecordedInOrder : Obligations.OutputsAreRecordedInOrder := by
  intro s t h
  obtain ⟨-, rfl⟩ | ⟨-, ⟨i, he⟩ | ⟨c, rfl⟩⟩ := step_next h
  · exact ⟨[], Nat.zero_le _, by simp⟩
  · exact he.outputs
  · exact ⟨[], Nat.zero_le _, by simp⟩

/-- Settles O26: both are among what every effect keeps. -/
theorem parametersAndLaunchBytesAreFixed : Obligations.ParametersAndLaunchBytesAreFixed := by
  intro s t h
  obtain ⟨-, rfl⟩ | ⟨-, ⟨i, he⟩ | ⟨c, rfl⟩⟩ := step_next h
  · exact ⟨rfl, rfl⟩
  · obtain ⟨-, -, hp, hf⟩ := he.kept
    exact ⟨hp, hf⟩
  · exact ⟨rfl, rfl⟩

/-- Settles O13, by induction on the number of steps. -/
theorem haltedMachineNeverChanges : Obligations.HaltedMachineNeverChanges := by
  intro s k hs
  have hstep : Sys2Proof.core.step s = .next s := step_halted hs
  induction k with
  | zero => rfl
  | succ k ih => simpa only [Host.Core.run, hstep] using ih

/-! ## The statements about every instruction -/

/-- Settles O21: only a write to D, a residue write and a compare reach the register file. -/
theorem onlyDAndResidueAreWritten : Obligations.OnlyDAndResidueAreWritten := by
  intro i s t h r npc hd hr
  obtain he | ⟨c, rfl⟩ := exec_next h
  · cases he with
    | @write d c o v hdest ho hv =>
      have hne : r ≠ d := fun e => hd (e ▸ hdest)
      rw [State.readReg_setPc, State.readReg_writeReg_ne _ _ _ hne]
      cases o with
      | none => rfl
      | some c' => exact State.readReg_writeReg_ne _ _ _ (hr (ho rfl))
    | compare ho => rw [State.readReg_setPc]; exact State.readReg_writeRes_ne _ _ _ (hr ho)
    | @input d c k hdest hp =>
      have hne : r ≠ d := fun e => hd (e ▸ hdest)
      rw [State.readReg_setPc, State.readReg_writeReg_ne _ _ _ hne, State.readReg_portIn]
    | _ => rfl
  · rfl

/-- Settles O22: of the effects only a store has another memory. -/
theorem onlyStoresChangeMemory : Obligations.OnlyStoresChangeMemory := by
  intro i s t h hs a _
  suffices hmem : t.mem = s.mem by rw [hmem]
  obtain he | ⟨c, rfl⟩ := exec_next h
  · cases he with
    | store hstore => rw [hs] at hstore; cases hstore
    | _ => simp
  · rfl

/-- Settles O27: an effect other than a branch or a write to D = 31 ends at `npc`. -/
theorem pcAdvancesUnlessWritten : Obligations.PcAdvancesUnlessWritten := by
  intro i s t h _ ht hb hd
  obtain he | ⟨c, rfl⟩ := exec_next h
  · cases he with
    | write hdest ho hv =>
      obtain hbr | rfl | hv := hv
      · rw [hb] at hbr; cases hbr
      · exact absurd hdest hd
      · exact hv
    | branch hbr => rw [hb] at hbr; cases hbr
    | _ => rfl
  · cases ht

end Sys2Proof.Laws.Effects
end

section
/-! PROOFS. Noninterference (20_memory.md R41, 40_io.md R92): a change of the state that an instruction does not see
commutes with its execution. -/

namespace Sys2Proof.Laws.Noninterference

open Sys2Proof Sys2Proof.Machine
open Sys2Proof.Laws.Effects (loadByte)

/-! ## Changes an instruction does not see -/

/-- `f` changes no register, pc or parameter, and commutes with every change of these and with a halt. -/
structure Unseen (f : State → State) : Prop where
  regs (s : State) : (f s).regs = s.regs
  pc (s : State) : (f s).pc = s.pc
  params (s : State) : (f s).params = s.params
  setRegs (s : State) (rs : Vector Cell 31) : { f s with regs := rs } = f { s with regs := rs }
  setPc (s : State) (v : Word) : (f s).setPc v = f (s.setPc v)
  haltWith (s : State) (c : HaltCause) : (f s).haltWith c = f (s.haltWith c)

/-- `f` changes nothing of memory either, and commutes with every change of it. -/
structure UnseenByAccess (f : State → State) : Prop extends Unseen f where
  mem (s : State) : (f s).mem = s.mem
  setMem (s : State) (m : Memory) : { f s with mem := m } = f { s with mem := m }

/-- The outcome of a step with its next state changed. -/
def mapNext (f : State → State) : Result State → Result State
  | .next t => .next (f t)
  | .fault r => .fault r
  | .refused r => .refused r

/-- Two actions that differ by a change of their answer still do after a common first action. -/
theorem bind_map {α : Type} {f : State → State} {g g' : α → Except Stop State} (x : Except Stop α)
    (h : ∀ a, g' a = (g a).map f) : (x >>= g') = (x >>= g).map f := by
  cases x with
  | error e => rfl
  | ok a => exact h a

/-- Two actions whose first parts differ by a change of their answer still do, if the rest goes on from it alike. -/
theorem map_bind_map {f : State → State} {x x' : Except Stop State} {g g' : State → Except Stop State}
    (hx : x' = x.map f) (h : ∀ t, g' (f t) = (g t).map f) : (x' >>= g') = (x >>= g).map f := by
  subst hx
  cases x with
  | error e => rfl
  | ok t => exact h t

theorem next_map {f : State → State} {s t : State} (h : t = f s) :
    (.next t : Result State) = mapNext f (.next s) := congrArg _ h

theorem return_map {f : State → State} {s t : State} (h : t = f s) :
    (pure t : Except Stop State) = (pure s : Except Stop State).map f := by rw [h]; rfl

section
variable {f : State → State}

namespace Unseen

variable (hf : Unseen f) (s : State)
include hf

theorem npcOf (i : Instr) : npcOf i (f s) = npcOf i s := by rw [Machine.npcOf, hf.pc, Machine.npcOf]

theorem readReg (npc : Word) (r : Reg) : (f s).readReg npc r = s.readReg npc r := by
  unfold State.readReg; rw [hf.regs]

theorem writeReg (d : Reg) (c : Cell) : (f s).writeReg d c = f (s.writeReg d c) := by
  rw [State.writeReg, hf.regs]; exact hf.setRegs s _

theorem writeRes (o : Option Cell) : (f s).writeRes o = f (s.writeRes o) := by
  cases o with
  | none => rfl
  | some c => exact hf.writeReg s resReg c

theorem writeOrJump (d : Reg) (c : Cell) (npc : Word) : (f s).writeOrJump d c npc = f (s.writeOrJump d c npc) := by
  rw [State.writeOrJump_eq, State.writeOrJump_eq, hf.writeReg, hf.setPc]

theorem writeOrBlock (d : Reg) (c : Cell) (npc : Word) : (f s).writeOrBlock d c npc = f (s.writeOrBlock d c npc) := by
  rw [State.writeOrBlock_eq, State.writeOrBlock_eq, hf.writeReg, hf.setPc]

theorem settle {x y : Except Stop State} (h : y = x.map f) : settle (f s) y = mapNext f (settle s x) := by
  subst h
  rcases x with (c | r | r) | t
  · exact congrArg _ (hf.haltWith s c)
  · rfl
  · rfl
  · rfl

/-! ### The shared actions -/

theorem doAdd (d : Reg) (a b : Cell) (npc : Word) : doAdd d a b npc (f s) = (doAdd d a b npc s).map f := by
  unfold Machine.doAdd
  rw [hf.params]
  exact bind_map _ fun r => bind_map _ fun _ => return_map (by rw [hf.writeRes, hf.writeOrJump])

theorem doSub (d : Reg) (a b : Cell) (npc : Word) : doSub d a b npc (f s) = (doSub d a b npc s).map f := by
  unfold Machine.doSub
  rw [hf.params]
  exact bind_map _ fun _ => bind_map _ fun r => bind_map _ fun _ =>
    return_map (by rw [hf.writeRes, hf.writeReg, hf.setPc])

theorem doMul (d : Reg) (a b : Cell) (npc : Word) : doMul d a b npc (f s) = (doMul d a b npc s).map f := by
  unfold Machine.doMul
  rw [hf.params]
  exact bind_map _ fun r => bind_map _ fun _ => return_map (by rw [hf.writeRes, hf.writeOrBlock])

theorem doDiv (d : Reg) (a b : Cell) (npc : Word) : doDiv d a b npc (f s) = (doDiv d a b npc s).map f := by
  unfold Machine.doDiv
  rw [hf.params]
  exact bind_map _ fun _ => bind_map _ fun r => bind_map _ fun _ => return_map (by rw [hf.writeRes, hf.writeOrBlock])

theorem doCmp (a b : Cell) (npc : Word) : doCmp a b npc (f s) = (doCmp a b npc s).map f := by
  unfold Machine.doCmp
  rw [hf.params]
  exact bind_map _ fun r => return_map (by rw [hf.writeRes, hf.setPc])

theorem doLogic (g : Word → Word → Word) (d : Reg) (a : Word) (b : Cell) (npc : Word) :
    doLogic g d a b npc (f s) = (doLogic g d a b npc s).map f :=
  bind_map _ fun _ => return_map (by rw [hf.writeReg, hf.setPc])

theorem writeD (d : Reg) (c : Cell) (npc : Word) : writeD d c npc (f s) = (writeD d c npc s).map f :=
  bind_map _ fun _ => return_map (by rw [hf.writeReg, hf.setPc])

theorem doLea (d : Reg) (ea : Except Stop Word) (npc : Word) : doLea d ea npc (f s) = (doLea d ea npc s).map f :=
  bind_map _ fun _ => return_map (hf.writeOrJump s d _ npc)

/-! ### The operands -/

theorem imm24Ty (npc : Word) (d : Reg) (b : Cell) : imm24Ty (f s) npc d b = imm24Ty s npc d b := by
  unfold Machine.imm24Ty; rw [hf.params, hf.readReg]

theorem indexValue (npc : Word) (r : Reg) : indexValue (f s) npc r = indexValue s npc r := by
  unfold Machine.indexValue; rw [hf.readReg]

theorem ea24 (npc ds : Word) (a : Addr24) : ea24 (f s) npc ds a = ea24 s npc ds a := by
  unfold Machine.ea24; simp only [hf.readReg, hf.indexValue]

theorem ea32 (npc ds : Word) (a : Addr32) : ea32 (f s) npc ds a = ea32 s npc ds a := by
  unfold Machine.ea32 offsetValue32; simp only [hf.readReg, hf.indexValue]

theorem execMov (d r : Reg) : execMov d r (f s) = mapNext f (execMov d r s) := by
  refine hf.settle s ?_
  simp only [hf.npcOf, hf.readReg, hf.writeOrJump]
  split <;> rfl

end Unseen

/-- An instruction that makes no data access commutes with a change it does not see. -/
theorem exec_unseen (hf : Unseen f) {i : Instr} (s : State) (hl : loadsMemory i = false) (hs : storesMemory i = false) :
    exec i (f s) = mapNext f (exec i s) := by
  cases i with
  | inn d n | ldtn d n => cases hl
  | ldu8_24 d a | ldu16_24 d a | lds8_24 d a | lds16_24 d a | fld8_24 d a | fld16_24 d a | f2ld8_24 d a
  | f2ld16_24 d a => cases hl
  | ldu8_32 d a | ldu16_32 d a | lds8_32 d a | lds16_32 d a | fld8_32 d a | fld16_32 d a | f2ld8_32 d a
  | f2ld16_32 d a => cases hl
  | outn d n | sttn d n => cases hs
  | st8_24 d a | st16_24 d a | st8_32 d a | st16_32 d a => cases hs
  | bsrn d n | brzn d n | brnzn d n | brpn d n | brmn d n =>
    refine next_map ?_
    simp only [hf.npcOf, hf.readReg, hf.params, hf.writeReg, hf.setPc]
  | mov d r => exact hf.execMov s d r
  | add d r | addi d n | add_24 d x r | addi_24 d x n =>
    refine hf.settle s ?_
    simp only [hf.npcOf, hf.readReg, hf.imm24Ty, hf.doAdd]
  | sub d r | subi d n | sub_24 d x r | subi_24 d x n =>
    refine hf.settle s ?_
    simp only [hf.npcOf, hf.readReg, hf.imm24Ty, hf.doSub]
  | mul d r | muli d n | mul_24 d x r | muli_24 d x n =>
    refine hf.settle s ?_
    simp only [hf.npcOf, hf.readReg, hf.imm24Ty, hf.doMul]
  | div d r | divi d n | div_24 d x r | divi_24 d x n =>
    refine hf.settle s ?_
    simp only [hf.npcOf, hf.readReg, hf.imm24Ty, hf.doDiv]
  | cmp d r | cmpi d n | cmp_24 d x r | cmpi_24 d x n =>
    refine hf.settle s ?_
    simp only [hf.npcOf, hf.readReg, hf.imm24Ty, hf.doCmp]
  | and d r | or d r | xor d r | andi d n | ori d n | xori d n | and_24 d x r | or_24 d x r | xor_24 d x r
  | andi_24 d x n | ori_24 d x n | xori_24 d x n =>
    refine hf.settle s ?_
    simp only [hf.npcOf, hf.readReg, hf.doLogic]
  | ldui d n | ldsi d n =>
    refine next_map ?_
    simp only [hf.npcOf, hf.writeOrJump]
  | ldfi d n | ldf2i d n | shftn d n | extctn d n =>
    refine hf.settle s ?_
    simp only [hf.npcOf, hf.readReg, hf.writeD]
  | lea8_24 d a | lea16_24 d a =>
    refine hf.settle s (x := doLea d (.ok _) _ s) (y := doLea d (.ok _) _ (f s)) ?_
    simp only [hf.npcOf, hf.ea24, hf.doLea]
  | lea8_32 d a | lea16_32 d a =>
    refine hf.settle s ?_
    simp only [hf.npcOf, hf.ea32, hf.doLea]

namespace UnseenByAccess

variable (hf : UnseenByAccess f) (s : State)
include hf

theorem load8 (a : Word) : (f s).load8 a = s.load8 a := by
  unfold State.load8; rw [hf.params, hf.mem]

theorem load16 (a : Word) : (f s).load16 a = s.load16 a := by
  unfold State.load16; rw [hf.params, hf.mem]

theorem requireByte (a : Word) : requireByte (f s).params a = requireByte s.params a := by rw [hf.params]

theorem store8 (a : Word) (b : Byte) : (f s).store8 a b = (s.store8 a b).map f := by
  unfold State.store8
  rw [hf.requireByte]
  exact bind_map _ fun _ => return_map (by rw [hf.mem]; exact hf.setMem s _)

theorem store16 (a v : Word) : (f s).store16 a v = (s.store16 a v).map f := by
  have ha : requireAligned (f s).params a = requireAligned s.params a := by rw [hf.params]
  unfold State.store16
  rw [ha, hf.requireByte, hf.requireByte]
  exact bind_map _ fun _ => bind_map _ fun _ => bind_map _ fun _ =>
    return_map (by rw [hf.mem]; exact hf.setMem s _)

/-! ### The shared actions -/

section
variable (d : Reg) (ea : Except Stop Word) (npc : Word)

theorem loadByte (conv : Byte → Cell) : loadByte conv d ea npc (f s) = (loadByte conv d ea npc s).map f := by
  unfold Effects.loadByte
  simp only [hf.load8]
  exact bind_map _ fun _ => bind_map _ fun _ => bind_map _ fun _ => return_map (by rw [hf.writeReg, hf.setPc])

theorem doFld16 (t : FloatTy) : doFld16 t d ea npc (f s) = (doFld16 t d ea npc s).map f := by
  unfold Machine.doFld16
  simp only [hf.load16]
  exact bind_map _ fun _ => bind_map _ fun _ => bind_map _ fun _ => return_map (by rw [hf.writeReg, hf.setPc])

theorem doLd16 (t : Ty) : doLd16 t d ea npc (f s) = (doLd16 t d ea npc s).map f := by
  unfold Machine.doLd16
  simp only [hf.load16]
  exact bind_map _ fun _ => bind_map _ fun _ => return_map (hf.writeOrJump s d _ npc)

theorem doSt8 : doSt8 d ea npc (f s) = (doSt8 d ea npc s).map f := by
  unfold Machine.doSt8
  rw [hf.readReg]
  exact bind_map _ fun a => map_bind_map (hf.store8 s a _) fun t => return_map (hf.setPc t npc)

theorem doSt16 : doSt16 d ea npc (f s) = (doSt16 d ea npc s).map f := by
  unfold Machine.doSt16
  rw [hf.readReg]
  exact bind_map _ fun a => map_bind_map (hf.store16 s a _) fun t => return_map (hf.setPc t npc)

end

theorem execLdtn (d : Reg) (n : Imm16) : execLdtn d n (f s) = mapNext f (execLdtn d n s) := by
  refine hf.settle s ?_
  simp only [hf.npcOf, hf.load16, hf.params]
  exact bind_map _ fun _ => bind_map _ fun _ => bind_map _ fun _ => return_map (by rw [hf.writeReg, hf.setPc])

theorem execSttn (d : Reg) (n : Imm16) : execSttn d n (f s) = mapNext f (execSttn d n s) := by
  refine hf.settle s ?_
  simp only [hf.npcOf, hf.readReg, hf.params]
  exact map_bind_map (hf.store16 s _ _) fun t => map_bind_map (hf.store16 t _ _) fun u => return_map (hf.setPc u _)

end UnseenByAccess

/-- An instruction other than INN and OUTN commutes with a change that it does not see and no access sees. -/
theorem exec_unseenByAccess (hf : UnseenByAccess f) {i : Instr} (s : State) (hp : reachesPorts i = false) :
    exec i (f s) = mapNext f (exec i s) := by
  cases i with
  | inn d n | outn d n => cases hp
  | ldtn d n => exact hf.execLdtn s d n
  | sttn d n => exact hf.execSttn s d n
  | ldu8_24 d a | lds8_24 d a | fld8_24 d a | f2ld8_24 d a =>
    refine hf.settle s (x := loadByte _ _ _ _ s) (y := loadByte _ _ _ _ (f s)) ?_
    simp only [hf.npcOf, hf.ea24, hf.loadByte]
  | ldu8_32 d a | lds8_32 d a | fld8_32 d a | f2ld8_32 d a =>
    refine hf.settle s (x := loadByte _ _ _ _ s) (y := loadByte _ _ _ _ (f s)) ?_
    simp only [hf.npcOf, hf.ea32, hf.loadByte]
  | ldu16_24 d a | lds16_24 d a =>
    refine hf.settle s (x := doLd16 _ d (.ok _) _ s) (y := doLd16 _ d (.ok _) _ (f s)) ?_
    simp only [hf.npcOf, hf.ea24, hf.doLd16]
  | ldu16_32 d a | lds16_32 d a =>
    refine hf.settle s ?_
    simp only [hf.npcOf, hf.ea32, hf.doLd16]
  | fld16_24 d a | f2ld16_24 d a =>
    refine hf.settle s ?_
    simp only [hf.npcOf, hf.ea24, hf.doFld16]
  | fld16_32 d a | f2ld16_32 d a =>
    refine hf.settle s ?_
    simp only [hf.npcOf, hf.ea32, hf.doFld16]
  | st8_24 d a =>
    refine hf.settle s (x := doSt8 d (.ok _) _ s) (y := doSt8 d (.ok _) _ (f s)) ?_
    simp only [hf.npcOf, hf.ea24, hf.doSt8]
  | st8_32 d a =>
    refine hf.settle s ?_
    simp only [hf.npcOf, hf.ea32, hf.doSt8]
  | st16_24 d a =>
    refine hf.settle s (x := doSt16 d (.ok _) _ s) (y := doSt16 d (.ok _) _ (f s)) ?_
    simp only [hf.npcOf, hf.ea24, hf.doSt16]
  | st16_32 d a =>
    refine hf.settle s ?_
    simp only [hf.npcOf, hf.ea32, hf.doSt16]
  | _ => exact exec_unseen hf.toUnseen s rfl rfl

end

/-! ## The statements -/

/-- The machine with another memory. -/
def withMem (m : Memory) (s : State) : State := { s with mem := m }

theorem unseen_withMem (m : Memory) : Unseen (withMem m) :=
  ⟨fun _ => rfl, fun _ => rfl, fun _ => rfl, fun _ _ => rfl, fun _ _ => rfl, fun _ _ => rfl⟩

/-- The machine with other internal registers, outputs and number of inputs drawn. -/
def withPorts (v : Vector Word 15) (l : List PortWrite) (n : Nat) (s : State) : State :=
  { s with iregs := v, outputs := l, inputDraws := n }

theorem unseenByAccess_withPorts (v : Vector Word 15) (l : List PortWrite) (n : Nat) :
    UnseenByAccess (withPorts v l n) :=
  ⟨⟨fun _ => rfl, fun _ => rfl, fun _ => rfl, fun _ _ => rfl, fun _ _ => rfl, fun _ _ => rfl⟩, fun _ => rfl,
    fun _ _ => rfl⟩

/-- Settles O23: another memory is a change that no instruction without a data access sees. -/
theorem otherInstructionsIgnoreMemory : Obligations.OtherInstructionsIgnoreMemory := by
  intro i s t m hl hs h
  exact (exec_unseen (unseen_withMem m) s hl hs).trans (congrArg (mapNext (withMem m)) h)

/-- Settles O24: ports and internal registers are such a change for all but INN and OUTN; with the state's own values
put in, the same says that they are left as they were. -/
theorem onlyInnAndOutnReachPorts : Obligations.OnlyInnAndOutnReachPorts := by
  intro i s t h hp
  have hsame : ∀ v l n, exec i (withPorts v l n s) = .next (withPorts v l n t) := fun v l n =>
    (exec_unseenByAccess (unseenByAccess_withPorts v l n) s hp).trans (congrArg (mapNext (withPorts v l n)) h)
  have hown : t = withPorts s.iregs s.outputs s.inputDraws t :=
    Host.Outcome.next.inj (h.symm.trans (hsame s.iregs s.outputs s.inputDraws))
  exact ⟨⟨by rw [hown]; rfl, by rw [hown]; rfl, by rw [hown]; rfl⟩, hsame⟩

end Sys2Proof.Laws.Noninterference
end

section
/-! PROOFS. Fetch, step and reset (30_encoding.md R66, 60_exceptions.md R290 to R298, 70_reset_and_hazards.md R320). -/

namespace Sys2Proof.Laws.Steps

open Sys2Proof Sys2Proof.Machine Sys2Proof.Laws.Codec

/-! ## From the fetched bytes to the step -/

section
variable {s : State} {bs : List Byte} {i : Instr}

theorem fetchDecode_eq_ok (hf : s.fetch = .ok bs) (hd : decodeBy s.params.opMaps bs = .ok i) :
    s.fetchDecode = .ok i := by
  simp only [State.fetchDecode, hf, bind, Except.bind, hd]
  rfl

theorem fetchDecode_eq_error {e : DecodeError} (hf : s.fetch = .ok bs) (hd : decodeBy s.params.opMaps bs = .error e) :
    s.fetchDecode = .error (.halt (haltOfDecode e)) := by
  simp only [State.fetchDecode, hf, bind, Except.bind, hd]
  rfl

theorem step_of_fetchDecode_ok (h : s.halted = false) (hd : s.fetchDecode = .ok i) : step s = exec i s := by
  rw [step, if_neg (ne_true_of_eq_false h), hd]

theorem step_of_fetchDecode_halt {c : HaltCause} (h : s.halted = false) (hd : s.fetchDecode = .error (.halt c)) :
    step s = .next (s.haltWith c) := by
  rw [step, if_neg (ne_true_of_eq_false h), hd]
  rfl

theorem fetch_odd (h : s.pc.getLsbD 0 = true) : s.fetch = .error (.halt .misalignedFetch) := by
  rw [State.fetch, if_pos h]
  rfl

end

/-- Settles O9: the step adds nothing to fetch, decoding and execution. -/
theorem stepRunsTheDecodedInstruction : Obligations.StepRunsTheDecodedInstruction :=
  fun _ _ _ hs hf hd _ => step_of_fetchDecode_ok hs (fetchDecode_eq_ok hf hd)

/-- Settles O11: `haltOfDecode` of either error is its label. -/
theorem noInstructionHalts : Obligations.NoInstructionHalts := fun _ _ hs hf =>
  ⟨fun hd => step_of_fetchDecode_halt hs (fetchDecode_eq_error hf hd),
    fun hd => step_of_fetchDecode_halt hs (fetchDecode_eq_error hf hd)⟩

/-- Settles O12: the fetch stops before anything is read. -/
theorem oddPcHalts : Obligations.OddPcHalts := by
  intro s hs hodd
  refine step_of_fetchDecode_halt hs ?_
  rw [State.fetchDecode, fetch_odd hodd]
  rfl

/-! ## How much of a window a fetch has to read (R66) -/

theorem fetchLength_layout16 (op5 : BitVec 5) (d top : Reg) (ext : Word) :
    fetchLength (layout16 op5 d top ext) = if takesN16 op5 && top == 0b10000#5 then 4 else 2 := by
  simp [fetchLength]

theorem fetchLength_layout24 (op6 : BitVec 6) (d s : Reg) (ie : BitVec 1) (top : Reg) (ext : Byte) :
    fetchLength (layout24 op6 d s ie top ext) = if ie.getLsbD 0 && !top.getLsbD 4 then 4 else 3 := by
  simp [fetchLength, -BitVec.getLsbD_eq_getElem]

theorem formatOf_tableWindow {n : Nat} (hn : 2 ≤ n) (w : BitVec 32) :
    formatOf (tableWindow n w.toNat) = formatOf w := by
  unfold formatOf
  rw [getLsbD_tableWindow, getLsbD_tableWindow, decide_eq_true (show 0 < n by omega),
    decide_eq_true (show 1 < n by omega), Bool.true_and, Bool.true_and]

section
variable (m : OpMaps) {w : BitVec 32}

theorem fetchLengthBy_b24 (h : formatOf w = .b24) : fetchLengthBy m w = 3 ∨ fetchLengthBy m w = 4 := by
  rw [fetchLengthBy, fetchLength, m.formatOf_toDefault, h]
  dsimp only
  split
  · exact .inr rfl
  · exact .inl rfl

theorem fetchLengthBy_b32 (h : formatOf w = .b32) : fetchLengthBy m w = 4 := by
  rw [fetchLengthBy, fetchLength, m.formatOf_toDefault, h]

theorem fetchLengthBy_b16 (h : formatOf w = .b16) : fetchLengthBy m w = 2 ∨ fetchLengthBy m w = 4 := by
  rw [fetchLengthBy, fetchLength, m.formatOf_toDefault, h]
  dsimp only
  split
  · exact .inr rfl
  · exact .inl rfl

/-- Two bytes tell whether there are more. -/
theorem fetchLengthBy_two_bytes (w : BitVec 32) :
    fetchLengthBy m (tableWindow 16 w.toNat) = 2 ↔ fetchLengthBy m w = 2 := by
  have hf := formatOf_tableWindow (show 2 ≤ 16 by decide) w
  cases h : formatOf w with
  | b16 =>
    rw [eq_layout16 h, tableWindow_layout16, fetchLengthBy, fetchLengthBy, toDefault_layout16, toDefault_layout16,
      fetchLength_layout16, fetchLength_layout16]
  | b24 =>
    have h' := fetchLengthBy_b24 m (hf.trans h)
    have h'' := fetchLengthBy_b24 m h
    omega
  | b32 =>
    have h' := fetchLengthBy_b32 m (hf.trans h)
    have h'' := fetchLengthBy_b32 m h
    omega

/-- Three bytes tell whether there is a fourth to read. -/
theorem fetchLengthBy_three_bytes (w : BitVec 32) :
    fetchLengthBy m (tableWindow 24 w.toNat) = 3 ↔ fetchLengthBy m w = 3 := by
  have hf := formatOf_tableWindow (show 2 ≤ 24 by decide) w
  cases h : formatOf w with
  | b16 =>
    have h' := fetchLengthBy_b16 m (hf.trans h)
    have h'' := fetchLengthBy_b16 m h
    omega
  | b24 =>
    rw [eq_layout24 h, tableWindow_layout24, fetchLengthBy, fetchLengthBy, m.toDefault_b24 (by simp),
      m.toDefault_b24 (by simp), withOp6_layout24, withOp6_layout24, fetchLength_layout24, fetchLength_layout24]
  | b32 =>
    have h' := fetchLengthBy_b32 m (hf.trans h)
    have h'' := fetchLengthBy_b32 m h
    omega

end

/-- The window of the first bytes of a window. -/
theorem windowOf_take_windowBytes (w : BitVec 32) {n : Nat} (hn : n ≤ 4) :
    windowOf ((windowBytes w).take n) = tableWindow (8 * n) w.toNat := by
  refine BitVec.eq_of_getLsbD_eq fun k hk => ?_
  rw [getLsbD_tableWindow]
  interval_cases n <;>
    simp only [windowOf, windowBytes, List.take, List.getD_cons_succ, List.getD_cons_zero, List.getD_nil,
      BitVec.getLsbD_append, BitVec.getLsbD_extractLsb', BitVec.getLsbD_zero] <;>
    interval_cases k <;> simp

/-! ## The fetch of bytes that are there -/

/-- At `pc` a fetch sees the first `n` bytes of `w`. -/
def Sees (s : State) (w : BitVec 32) (n : Nat) : Prop :=
  ∀ k, k < n → Params.present s.params (s.pc + BitVec.ofNat 16 k) = true ∧
    s.fetchMem.read (s.pc + BitVec.ofNat 16 k) = w.extractLsb' (8 * k) 8

theorem fetchByte_of_sees {s : State} {w : BitVec 32} {n k : Nat} (h : Sees s w n) (hk : k < n) :
    s.fetchByte (s.pc + BitVec.ofNat 16 k) = .ok (w.extractLsb' (8 * k) 8) := by
  obtain ⟨hp, hr⟩ := h k hk
  rw [State.fetchByte, requireByte_present hp, hr]
  rfl

/-- A fetch that sees as many bytes of a window as the window has reads just these. -/
theorem fetch_of_sees {s : State} {w : BitVec 32} (he : s.pc.getLsbD 0 = false)
    (h : Sees s w (fetchLengthBy s.params.opMaps w)) :
    s.fetch = .ok ((windowBytes w).take (fetchLengthBy s.params.opMaps w)) := by
  have h2 := fetchLengthBy_two_bytes s.params.opMaps w
  have h3 := fetchLengthBy_three_bytes s.params.opMaps w
  rw [show (16 : Nat) = 8 * 2 from rfl, ← windowOf_take_windowBytes w (by decide)] at h2
  rw [show (24 : Nat) = 8 * 3 from rfl, ← windowOf_take_windowBytes w (by decide)] at h3
  simp only [windowBytes, List.take] at h2 h3
  have hlen : fetchLengthBy s.params.opMaps w = 2 ∨ fetchLengthBy s.params.opMaps w = 3 ∨
      fetchLengthBy s.params.opMaps w = 4 := by
    obtain h4 | ⟨h2, -⟩ | ⟨h3, -⟩ := fetchLength_cases (s.params.opMaps.toDefault w)
    · exact .inr (.inr h4)
    · exact .inl h2
    · exact .inr (.inl h3)
  generalize fetchLengthBy s.params.opMaps w = n at *
  have hb0 : s.fetchByte s.pc = .ok (w.extractLsb' 0 8) := by simpa using fetchByte_of_sees h (k := 0) (by omega)
  have hb1 : s.fetchByte (s.pc + 1#16) = .ok (w.extractLsb' 8 8) := fetchByte_of_sees h (by omega)
  obtain rfl | hn : n = 2 ∨ n ≠ 2 := by omega
  · simp [State.fetch, he, hb0, hb1, h2, windowBytes, bind, Except.bind, -BitVec.getLsbD_eq_getElem]
    rfl
  · have hb2 : s.fetchByte (s.pc + 2#16) = .ok (w.extractLsb' 16 8) := fetchByte_of_sees h (by omega)
    obtain rfl | rfl : n = 3 ∨ n = 4 := by omega
    · simp [State.fetch, he, hb0, hb1, hb2, h2, h3, windowBytes, bind, Except.bind, -BitVec.getLsbD_eq_getElem]
      rfl
    · have hb3 : s.fetchByte (s.pc + 3#16) = .ok (w.extractLsb' 24 8) := fetchByte_of_sees h (by omega)
      simp [State.fetch, he, hb0, hb1, hb2, hb3, h2, h3, windowBytes, bind, Except.bind, -BitVec.getLsbD_eq_getElem]
      rfl

/-! ## The fetch of an encoding -/

theorem fetchLengthBy_ofDefault (m : OpMaps) (w : BitVec 32) : fetchLengthBy m (m.ofDefault w) = fetchLength w := by
  rw [fetchLengthBy, m.toDefault_ofDefault]

section
variable {i : Instr}

/-- A fetch never reads past the bytes the instruction occupies (R65, R66). -/
theorem fetchLength_window_le (h : i.WellFormed) : fetchLength i.window ≤ i.ilen := by
  obtain h2 | h4 := ilen_two_or_four i
  · obtain ⟨op5, d, top, hw, htop⟩ := window_of_ilen_two h h2
    rw [hw, h2, fetchLength_layout16, if_neg]
    rintro hesc
    obtain ⟨ht, he⟩ := Bool.and_eq_true_iff.mp hesc
    exact htop ht (beq_iff_eq.mp he)
  · have := fetchLength_cases i.window
    omega

theorem getD_encodeBy (m : OpMaps) {k : Nat} (hk : k < i.ilen) :
    (encodeBy m i).getD k 0#8 = (m.ofDefault i.window).extractLsb' (8 * k) 8 := by
  obtain h | h := ilen_two_or_four i <;> rw [encodeBy, h] <;> rw [h] at hk <;> interval_cases k <;> rfl

/-- The bytes a fetch reads of an encoding decode to the instruction: the padding byte it leaves out is zero. -/
theorem decodeBy_fetched (m : OpMaps) (h : i.WellFormed) :
    decodeBy m ((windowBytes (m.ofDefault i.window)).take (fetchLength i.window)) = .ok i := by
  have hi := decodeWindow_window h
  obtain ⟨-, hwin⟩ := isWindowOf_of_decodeWindow hi
  have hlen : fetchLength i.window ≤ 4 := by
    have := fetchLength_cases i.window
    omega
  rw [decodeBy, decodeWindowBy, windowOf_take_windowBytes _ hlen, ← ofDefault_tableWindow, ← hwin,
    m.toDefault_ofDefault, hi]

end

/-- Settles O10: the fetch reads no more of the encoding than it needs, and that decodes to the instruction. -/
theorem encodedBytesAtPcAreExecuted : Obligations.EncodedBytesAtPcAreExecuted := by
  intro s i hs he hwf hpres hread
  have hle := fetchLength_window_le hwf
  have hlen := fetchLengthBy_ofDefault s.params.opMaps i.window
  have hsees : Sees s (s.params.opMaps.ofDefault i.window)
      (fetchLengthBy s.params.opMaps (s.params.opMaps.ofDefault i.window)) := by
    intro k hk
    have hk' : k < i.ilen := by omega
    exact ⟨hpres k hk', (hread k hk').trans (getD_encodeBy _ hk')⟩
  have hfetch := fetch_of_sees he hsees
  rw [hlen] at hfetch
  exact step_of_fetchDecode_ok hs (fetchDecode_eq_ok hfetch (decodeBy_fetched _ hwf))

/-! ## Reset -/

theorem inv_resetWith {p : Params} (h : p.resetPc.getLsbD 0 = false) : (State.resetWith p).Inv := by
  refine ⟨rfl, rfl, rfl, fun k => ?_, h⟩
  simp

/-- Settles O16; the default RESET_PC is even. -/
theorem resetStateIsGood : Obligations.ResetStateIsGood :=
  ⟨fun _ h => ⟨inv_resetWith h, rfl, rfl, rfl⟩, inv_resetWith rfl, rfl, rfl⟩

/-- Settles O17: what the invariant says of memory, launch bytes and RESET_PC, reset leaves as it is. -/
theorem resetLeavesTheHalt : Obligations.ResetLeavesTheHalt := by
  intro s hs
  obtain ⟨hmem, himg, -, -, hpc⟩ := hs
  refine ⟨rfl, rfl, hpc, fun _ _ => rfl, hmem, himg, rfl, fun k => ?_, hpc⟩
  simp

end Sys2Proof.Laws.Steps
end

section
/-! PROOFS. Integer arithmetic: the model's bit-vector results are the exact integer results of the rules (42_alu16.md
R106 to R112, R124). -/

namespace Sys2Proof.Laws.Arithmetic

open Sys2Proof Sys2Proof.Machine

/-! ## Words and exact integers -/

theorem residueOf_eq (p : Prop) [Decidable p] : residueOf p = some (flagCell (decide p)) := by
  unfold residueOf flagCell
  by_cases h : p <;> simp [h]

theorem ofNat_toNat_add (a b : Word) : BitVec.ofNat 16 (a.toNat + b.toNat) = a + b := by
  rw [BitVec.ofNat_add, BitVec.ofNat_toNat, BitVec.ofNat_toNat, BitVec.setWidth_eq, BitVec.setWidth_eq]

theorem ofInt_toInt_add (a b : Word) : BitVec.ofInt 16 (a.toInt + b.toInt) = a + b := by
  rw [BitVec.ofInt_add, BitVec.ofInt_toInt, BitVec.ofInt_toInt]

theorem ofInt_toInt_sub (a b : Word) : BitVec.ofInt 16 (a.toInt - b.toInt) = a - b := by
  rw [Int.sub_eq_add_neg, BitVec.ofInt_add, BitVec.ofInt_neg, BitVec.ofInt_toInt, BitVec.ofInt_toInt,
    BitVec.sub_eq_add_neg]

theorem ofInt_toNat_sub (a b : Word) : BitVec.ofInt 16 ((a.toNat : Int) - (b.toNat : Int)) = a - b := by
  rw [Int.sub_eq_add_neg, BitVec.ofInt_add, BitVec.ofInt_neg, BitVec.ofInt_natCast, BitVec.ofInt_natCast,
    BitVec.ofNat_toNat, BitVec.ofNat_toNat, BitVec.setWidth_eq, BitVec.setWidth_eq, BitVec.sub_eq_add_neg]

/-- Signed overflow is a sum outside the range (R108). -/
theorem overflowAdd_eq (a b : Word) : overflowAdd a b = decide (OutOfS16 (a.toInt + b.toInt)) := by
  have h : overflowAdd a b = a.saddOverflow b := by
    rw [BitVec.saddOverflow_eq]; rfl
  rw [h, BitVec.saddOverflow, ← Bool.decide_or]
  exact decide_eq_decide.mpr (by omega)

/-- Signed overflow is a difference outside the range (R109). -/
theorem overflowSub_eq (a b : Word) : overflowSub a b = decide (OutOfS16 (a.toInt - b.toInt)) := by
  have h : overflowSub a b = a.ssubOverflow b := by
    rw [BitVec.ssubOverflow_eq, overflowSub]
    cases a.msb <;> cases b.msb <;> simp
  rw [h, BitVec.ssubOverflow, ← Bool.decide_or]
  exact decide_eq_decide.mpr (by omega)

/-- The halves of a 32-bit pattern that is `z` modulo 2^32. -/
theorem halves_ofInt (z : Int) :
    (BitVec.ofInt 32 z).extractLsb' 0 16 = BitVec.ofInt 16 z ∧
      (BitVec.ofInt 32 z).extractLsb' 16 16 = BitVec.ofInt 16 (z / 65536) := by
  constructor <;> apply BitVec.eq_of_toNat_eq <;>
    simp only [BitVec.extractLsb'_toNat, BitVec.toNat_ofInt, Nat.shiftRight_eq_div_pow] <;> omega

theorem productS_halves (a b : Word) :
    (productS a b).extractLsb' 0 16 = BitVec.ofInt 16 (a.toInt * b.toInt) ∧
      (productS a b).extractLsb' 16 16 = BitVec.ofInt 16 (a.toInt * b.toInt / 65536) :=
  halves_ofInt _

theorem productU_halves (a b : Word) :
    (productU a b).extractLsb' 0 16 = BitVec.ofNat 16 (a.toNat * b.toNat) ∧
      (productU a b).extractLsb' 16 16 = BitVec.ofNat 16 (a.toNat * b.toNat / 65536) := by
  have h := halves_ofInt ((a.toNat * b.toNat : Nat) : Int)
  rw [show (65536 : Int) = ((65536 : Nat) : Int) from rfl, ← Int.natCast_ediv, BitVec.ofInt_natCast,
    BitVec.ofInt_natCast, BitVec.ofInt_natCast] at h
  exact h

/-- CmpResult compares the exact numbers, if they tell the operands apart. -/
theorem cmpCell_eq_exactCmp (p : Params) {x y : Int} (a b : Cell) (h : x = y ↔ a.v = b.v) :
    cmpCell p (decide (x < y)) a b = exactCmp p x y a b := by
  unfold cmpCell exactCmp
  cases p.cmpResult with
  | signed =>
    by_cases hlt : x < y
    · simp [hlt]
    · by_cases heq : a.v = b.v
      · simp [h.mpr heq, heq]
      · simp [hlt, heq, mt h.mp heq]
  | other => rfl

/-! ## The exact results -/

/-- The unsigned operations are exact (R108 to R112). -/
theorem arithU_exact (p : Params) (op : ArithOp) (a b : Cell) :
    ((arithU p op a b).1, some (arithU p op a b).2) = exactU p op a b := by
  cases op with
  | add =>
    simp only [arithU, exactU, residueOf_eq, ofNat_toNat_add, carryAdd]
    rfl
  | sub =>
    simp only [arithU, exactU, residueOf_eq, ofInt_toNat_sub, carrySub]
    cases p.subCarry <;> rfl
  | mul =>
    obtain ⟨hlo, hhi⟩ := productU_halves a.v b.v
    simp only [arithU, exactU, productCells, hlo, hhi]
  | div => rfl
  | cmp =>
    have hinj : ((a.v.toNat : Int) = b.v.toNat) ↔ a.v = b.v := by rw [Int.natCast_inj, BitVec.toNat_inj]
    have hlt : decide (a.v.toNat < b.v.toNat) = decide ((a.v.toNat : Int) < b.v.toNat) :=
      decide_eq_decide.mpr Int.ofNat_lt.symm
    simp only [arithU, exactU, hlt, cmpCell_eq_exactCmp p a b hinj]

/-- The signed operations are exact (R108 to R112). -/
theorem arithS_exact (p : Params) (op : ArithOp) (a b : Cell) :
    ((arithS p op a b).1, some (arithS p op a b).2) = exactS p op a b := by
  cases op with
  | add => simp only [arithS, exactS, residueOf_eq, ofInt_toInt_add, overflowAdd_eq]
  | sub => simp only [arithS, exactS, residueOf_eq, ofInt_toInt_sub, overflowSub_eq]
  | mul =>
    obtain ⟨hlo, hhi⟩ := productS_halves a.v b.v
    simp only [arithS, exactS, productCells, hlo, hhi]
  | div => rfl
  | cmp => simp only [arithS, exactS, cmpCell_eq_exactCmp p a b BitVec.toInt_inj]

/-- Where the type rule lets arithmetic run its result is the exact one (R106). -/
theorem arithResult_exact {s : State} (op : ArithOp) {a b : Cell} (h : TypesAllow s a b) :
    arithResult s.params op a b = .ok (exactArith s.params op a b) := by
  unfold arithResult exactArith
  by_cases ht : a.t = b.t
  · rw [if_pos ht, if_pos ht]
    cases b.t with
    | u => exact congrArg _ (arithU_exact _ op a b)
    | s => exact congrArg _ (arithS_exact _ op a b)
    | f | f2 => rfl
  · rw [if_neg ht, if_neg ht, if_pos (h.resolve_left ht)]

end Sys2Proof.Laws.Arithmetic
end

section
/-! PROOFS. The arithmetic instructions in their four forms (42_alu16.md, 47_alu24.md): each shared action once, for any
instruction that runs it. -/

namespace Sys2Proof.Laws.Arithmetic

open Sys2Proof Sys2Proof.Machine

/-! ## From the action to the instruction -/

section
variable {i : Instr} {s : State} {x : Except Stop State}

/-- An instruction whose action answers completes. -/
theorem completes_of_ok {t : State} {P : State → Prop} (hx : exec i s = settle s x) (h : x = .ok t) (hP : P t) :
    Completes i s P :=
  ⟨t, by rw [hx, h, settle_ok], hP⟩

/-- An instruction whose action halts leaves the state frozen. -/
theorem haltsWith_of_error {c : HaltCause} (hx : exec i s = settle s x) (h : x = .error (.halt c)) :
    HaltsWith i s c := by
  rw [HaltsWith, hx, h]; rfl

theorem refused_of_error {r : Refusal} (hx : exec i s = settle s x) (h : x = .error (.refuse r)) :
    exec i s = .refused r := by
  rw [hx, h]; rfl

end

section
variable {i : Instr} {s : State} {d : Reg} {a b : Cell} {npc : Word}

/-! ## What each action answers -/

theorem doAdd_eq_ok (h : TypesAllow s a b) (hd : d ≠ resReg) :
    doAdd d a b npc s = .ok ((s.writeRes (exactArith s.params .add a b).2).writeOrJump d
      (exactArith s.params .add a b).1 npc) := by
  rw [doAdd, arithResult_exact .add h, rejectRes_ne hd]; rfl

theorem doSub_eq_ok (h : TypesAllow s a b) (hd : d ≠ resReg) (hp : d ≠ pcReg) :
    doSub d a b npc s = .ok (((s.writeRes (exactArith s.params .sub a b).2).writeReg d
      (exactArith s.params .sub a b).1).setPc npc) := by
  rw [doSub, rejectPc_ne hp, arithResult_exact .sub h, rejectRes_ne hd]; rfl

theorem doMul_eq_ok (h : TypesAllow s a b) (hd : d ≠ resReg) :
    doMul d a b npc s = .ok (((s.writeRes (exactArith s.params .mul a b).2).writeReg d
      (exactArith s.params .mul a b).1).setPc npc) := by
  rw [doMul, arithResult_exact .mul h, rejectRes_ne hd, ← State.writeOrBlock_eq]; rfl

theorem doDiv_eq_ok (hdiv : s.params.hasDiv = true) (h : TypesAllow s a b) (hd : d ≠ resReg) :
    doDiv d a b npc s = .ok (((s.writeRes (exactArith s.params .div a b).2).writeReg d
      (exactArith s.params .div a b).1).setPc npc) := by
  rw [doDiv, requireDiv, if_pos hdiv, arithResult_exact .div h, rejectRes_ne hd, ← State.writeOrBlock_eq]; rfl

theorem doCmp_eq_ok (h : TypesAllow s a b) :
    doCmp a b npc s = .ok ((s.writeRes (exactArith s.params .cmp a b).2).setPc npc) := by
  rw [doCmp, arithResult_exact .cmp h]; rfl

/-! ## What each instruction that runs the action does -/

theorem addCompletes (hx : exec i s = settle s (doAdd d a b (npcOf i s) s)) : AddCompletes i s d a b := by
  intro h hd
  refine completes_of_ok hx (doAdd_eq_ok h hd) ?_
  rw [State.writeOrJump_eq]
  exact ⟨writesArith_writeRes_writeReg s _ _ _ hd, rfl⟩

theorem subCompletes (hx : exec i s = settle s (doSub d a b (npcOf i s) s)) : SubCompletes i s d a b :=
  fun hp h hd => completes_of_ok hx (doSub_eq_ok h hd hp) ⟨writesArith_writeRes_writeReg s _ _ _ hd, rfl⟩

theorem mulCompletes (hx : exec i s = settle s (doMul d a b (npcOf i s) s)) : MulCompletes i s d a b :=
  fun h hd => completes_of_ok hx (doMul_eq_ok h hd) ⟨writesArith_writeRes_writeReg s _ _ _ hd, rfl⟩

theorem divCompletes (hx : exec i s = settle s (doDiv d a b (npcOf i s) s)) : DivCompletes i s d a b :=
  fun hdiv h hd => completes_of_ok hx (doDiv_eq_ok hdiv h hd) ⟨writesArith_writeRes_writeReg s _ _ _ hd, rfl⟩

/-- A residue write alone, and a new pc. -/
theorem onlyRegs_writeRes_setPc (s : State) (o : Option Cell) (v : Word) :
    OnlyRegs s ((s.writeRes o).setPc v) [resReg] := by
  cases o with
  | none =>
    obtain ⟨-, hmem, hrest⟩ := onlyRegs_setPc s v
    exact ⟨fun _ _ _ => rfl, hmem, hrest⟩
  | some c => exact onlyRegs_writeReg_setPc s resReg c v

theorem cmpCompletes (hx : exec i s = settle s (doCmp a b (npcOf i s) s)) : CmpCompletes i s a b := by
  intro h
  refine completes_of_ok hx (doCmp_eq_ok h) ⟨?_, rfl, onlyRegs_writeRes_setPc s _ _⟩
  rw [State.readReg_setPc, State.readReg_writeRes_self]
  rfl

/-! ## Refusals and halts -/

theorem doAdd_resReg (h : TypesAllow s a b) : doAdd resReg a b npc s = .error (.refuse .residueWrittenTwice) := by
  rw [doAdd, arithResult_exact .add h]; rfl

theorem doSub_resReg (h : TypesAllow s a b) : doSub resReg a b npc s = .error (.refuse .residueWrittenTwice) := by
  rw [doSub, rejectPc_ne (by decide), arithResult_exact .sub h]; rfl

theorem doMul_resReg (h : TypesAllow s a b) : doMul resReg a b npc s = .error (.refuse .residueWrittenTwice) := by
  rw [doMul, arithResult_exact .mul h]; rfl

theorem doDiv_resReg (h : TypesAllow s a b) (hdiv : s.params.hasDiv = true) :
    doDiv resReg a b npc s = .error (.refuse .residueWrittenTwice) := by
  rw [doDiv, requireDiv, if_pos hdiv, arithResult_exact .div h]; rfl

theorem doDiv_noDivider (h : s.params.hasDiv = false) :
    doDiv d a b npc s = .error (.halt .unimplementedInstruction) := by
  rw [doDiv, requireDiv, if_neg (ne_true_of_eq_false h)]; rfl

section
variable (hm : s.params.mixedTypes = false) (ht : a.t ≠ b.t)
include hm ht

theorem doAdd_mixed : doAdd d a b npc s = .error (.halt .unimplementedInstruction) := by
  rw [doAdd, arithResult_mixed .add ht hm]; rfl

theorem doSub_mixed (hp : d ≠ pcReg) : doSub d a b npc s = .error (.halt .unimplementedInstruction) := by
  rw [doSub, rejectPc_ne hp, arithResult_mixed .sub ht hm]; rfl

theorem doMul_mixed : doMul d a b npc s = .error (.halt .unimplementedInstruction) := by
  rw [doMul, arithResult_mixed .mul ht hm]; rfl

/-- Without a divider it is the same halt. -/
theorem doDiv_mixed : doDiv d a b npc s = .error (.halt .unimplementedInstruction) := by
  obtain ⟨-, h⟩ | ⟨-, h⟩ := requireDiv_cases s.params <;> rw [doDiv, h]
  · rw [arithResult_mixed .div ht hm]; rfl
  · rfl

theorem doCmp_mixed : doCmp a b npc s = .error (.halt .unimplementedInstruction) := by
  rw [doCmp, arithResult_mixed .cmp ht hm]; rfl

end

end

/-! ## The statements -/

/-- Settles O40: all four forms run `doAdd`. -/
theorem addResult : Obligations.AddResult :=
  ⟨fun _ _ _ => addCompletes rfl, fun _ _ _ => addCompletes rfl, fun _ _ _ _ => addCompletes rfl,
    fun _ _ _ _ => addCompletes rfl⟩

/-- Settles O41: all four forms run `doSub`. -/
theorem subResult : Obligations.SubResult :=
  ⟨fun _ _ _ => subCompletes rfl, fun _ _ _ => subCompletes rfl, fun _ _ _ _ => subCompletes rfl,
    fun _ _ _ _ => subCompletes rfl⟩

/-- Settles O42: all four forms run `doMul`. -/
theorem mulResult : Obligations.MulResult :=
  ⟨fun _ _ _ => mulCompletes rfl, fun _ _ _ => mulCompletes rfl, fun _ _ _ _ => mulCompletes rfl,
    fun _ _ _ _ => mulCompletes rfl⟩

/-- Settles O43: all four forms run `doDiv`. -/
theorem divResult : Obligations.DivResult :=
  ⟨fun _ _ _ => divCompletes rfl, fun _ _ _ => divCompletes rfl, fun _ _ _ _ => divCompletes rfl,
    fun _ _ _ _ => divCompletes rfl⟩

/-- Settles O45: all four forms run `doCmp`. -/
theorem cmpResult : Obligations.CmpResult :=
  ⟨fun _ _ _ => cmpCompletes rfl, fun _ _ _ => cmpCompletes rfl, fun _ _ _ _ => cmpCompletes rfl,
    fun _ _ _ _ => cmpCompletes rfl⟩

/-- Settles O30: `doDiv` asks for the divider first. -/
theorem divisionWithoutDividerHalts : Obligations.DivisionWithoutDividerHalts :=
  ⟨fun _ _ _ h => haltsWith_of_error rfl (doDiv_noDivider h), fun _ _ _ h => haltsWith_of_error rfl (doDiv_noDivider h),
    fun _ _ _ _ h => haltsWith_of_error rfl (doDiv_noDivider h),
    fun _ _ _ _ h => haltsWith_of_error rfl (doDiv_noDivider h)⟩

/-- Settles O20: the checks before the refusal pass, in the 16-bit immediate forms because the constant has D's type. -/
theorem residueDestinationIsRefused : Obligations.ResidueDestinationIsRefused := by
  refine ⟨fun r s h => ?_, fun n s => ?_, fun x r s h => ?_, fun x n s h => ?_⟩
  · exact ⟨refused_of_error rfl (doAdd_resReg h), refused_of_error rfl (doSub_resReg h),
      refused_of_error rfl (doMul_resReg h), fun hdiv => refused_of_error rfl (doDiv_resReg h hdiv)⟩
  · have h : ∀ b : Cell, TypesAllow s (imm16Cell n b.t) b := fun b => .inl (immCell_t b.t _ _)
    exact ⟨refused_of_error rfl (doAdd_resReg (h _)), refused_of_error rfl (doSub_resReg (h _)),
      refused_of_error rfl (doMul_resReg (h _)), fun hdiv => refused_of_error rfl (doDiv_resReg (h _) hdiv)⟩
  · exact ⟨refused_of_error rfl (doAdd_resReg h), refused_of_error rfl (doSub_resReg h),
      refused_of_error rfl (doMul_resReg h), fun hdiv => refused_of_error rfl (doDiv_resReg h hdiv)⟩
  · exact ⟨refused_of_error rfl (doAdd_resReg h), refused_of_error rfl (doSub_resReg h),
      refused_of_error rfl (doMul_resReg h), fun hdiv => refused_of_error rfl (doDiv_resReg h hdiv)⟩

/-- Settles O29: the type rule stops each action; a constant has the type it is made for. -/
theorem mixedTypesHalt : Obligations.MixedTypesHalt := by
  refine ⟨fun d r s hm h => ?_, fun d x r s hm h => ?_, fun d x n s hm h => ?_⟩
  · exact ⟨haltsWith_of_error rfl (doAdd_mixed hm h), haltsWith_of_error rfl (doMul_mixed hm h),
      haltsWith_of_error rfl (doDiv_mixed hm h), haltsWith_of_error rfl (doCmp_mixed hm h),
      fun hp => haltsWith_of_error rfl (doSub_mixed hm h hp)⟩
  · exact ⟨haltsWith_of_error rfl (doAdd_mixed hm h), haltsWith_of_error rfl (doMul_mixed hm h),
      haltsWith_of_error rfl (doDiv_mixed hm h), haltsWith_of_error rfl (doCmp_mixed hm h),
      fun hp => haltsWith_of_error rfl (doSub_mixed hm h hp)⟩
  · have ht : (imm24Cell n (const24Ty (.addi_24 d x n) s d x)).t ≠ (operand (.addi_24 d x n) s x).t := by
      rw [imm24Cell, immCell_t]; exact h
    exact ⟨haltsWith_of_error rfl (doAdd_mixed hm ht), haltsWith_of_error rfl (doMul_mixed hm ht),
      haltsWith_of_error rfl (doDiv_mixed hm ht), haltsWith_of_error rfl (doCmp_mixed hm ht),
      fun hp => haltsWith_of_error rfl (doSub_mixed hm ht hp)⟩

end Sys2Proof.Laws.Arithmetic
end

section
/-! PROOFS. The division law (42_alu16.md R111, R124) and the exponent bits of integers (10_state.md R14). -/

namespace Sys2Proof.Laws.Arithmetic

open Sys2Proof Sys2Proof.Machine

/-! ## Division -/

/-- Truncating division over the integers: the law, the size of the remainder, and its sign. -/
theorem tdiv_law (n : Int) {m : Int} (hm : m ≠ 0) :
    n = n.tdiv m * m + n.tmod m ∧ (n.tmod m).natAbs < m.natAbs ∧ (0 ≤ n → 0 ≤ n.tmod m) ∧ (n ≤ 0 → n.tmod m ≤ 0) := by
  refine ⟨?_, ?_, Int.tmod_nonneg m, fun hn => ?_⟩
  · rw [Int.mul_comm]; exact (Int.mul_tdiv_add_tmod n m).symm
  · rw [Int.natAbs_tmod]; exact Nat.mod_lt _ (Int.natAbs_pos.mpr hm)
  · have h := Int.tmod_nonneg m (Int.neg_nonneg.mpr hn)
    rw [Int.neg_tmod] at h
    exact Int.neg_nonneg.mp h

/-- The quotient of two half words fits, but for -32768 / -1. -/
theorem tdiv_range {n m : Int} (hm : m ≠ 0) (hlo : -32768 ≤ n) (hhi : n ≤ 32767) (h : ¬(n = -32768 ∧ m = -1)) :
    -32768 ≤ n.tdiv m ∧ n.tdiv m < 32768 := by
  obtain ⟨hlaw, hr, hpos, hneg⟩ := tdiv_law n hm
  have habs : (n.tdiv m).natAbs ≤ n.natAbs := by rw [Int.natAbs_tdiv]; exact Nat.div_le_self _ _
  have hne : n.tdiv m ≠ 32768 := by
    intro hq
    rw [hq] at hlaw
    omega
  omega

theorem word_toInt_range (n : Word) : -32768 ≤ n.toInt ∧ n.toInt ≤ 32767 := by
  have hlo := BitVec.le_toInt n
  have hhi := BitVec.toInt_lt (x := n)
  omega

theorem divU_law {n m : Word} (hm : m ≠ 0#16) :
    n.toNat = (divU n m).1.toNat * m.toNat + (divU n m).2.toNat ∧ (divU n m).2.toNat < m.toNat := by
  have hpos : 0 < m.toNat := Nat.pos_of_ne_zero fun h => hm (BitVec.eq_of_toNat_eq h)
  have hq : n.toNat / m.toNat < 2 ^ 16 := lt_of_le_of_lt (Nat.div_le_self _ _) n.isLt
  have hr : n.toNat % m.toNat < 2 ^ 16 := lt_of_le_of_lt (Nat.mod_le _ _) n.isLt
  rw [divU, if_neg hm, BitVec.toNat_ofNat, BitVec.toNat_ofNat, Nat.mod_eq_of_lt hq, Nat.mod_eq_of_lt hr]
  exact ⟨(Nat.div_add_mod' _ _).symm, Nat.mod_lt _ hpos⟩

/-- Where the spec states quotient and remainder they are the integers' (R111). -/
theorem divS_toInt {n m : Word} (hm : m ≠ 0#16) (h : ¬(n = 0x8000#16 ∧ m = 0xFFFF#16)) :
    (divS n m).1.toInt = n.toInt.tdiv m.toInt ∧ (divS n m).2.toInt = n.toInt.tmod m.toInt := by
  have hm' : m.toInt ≠ 0 := fun e => hm (BitVec.eq_of_toInt_eq e)
  have h' : ¬(n.toInt = -32768 ∧ m.toInt = -1) := fun ⟨e, e'⟩ => h ⟨BitVec.eq_of_toInt_eq e, BitVec.eq_of_toInt_eq e'⟩
  obtain ⟨hnlo, hnhi⟩ := word_toInt_range n
  obtain ⟨hmlo, hmhi⟩ := word_toInt_range m
  obtain ⟨hqlo, hqhi⟩ := tdiv_range hm' hnlo hnhi h'
  obtain ⟨-, hr, -, -⟩ := tdiv_law n.toInt hm'
  rw [divS, if_neg (not_or.mpr ⟨hm, h⟩)]
  exact ⟨BitVec.toInt_ofInt_eq_self (by decide) (by omega) (by omega),
    BitVec.toInt_ofInt_eq_self (by decide) (by omega) (by omega)⟩

/-- Settles O44: quotient and remainder are the integers', which obey the law. -/
theorem divisionLaw : Obligations.DivisionLaw := by
  refine ⟨fun n m hm => divU_law hm, fun n m hm h => ?_⟩
  obtain ⟨hq, hr⟩ := divS_toInt hm h
  rw [hq, hr]
  exact tdiv_law n.toInt fun e => hm (BitVec.eq_of_toInt_eq e)

/-! ## Exponent bits -/

/-- Type U or S. -/
abbrev IsInteger (t : Ty) : Prop := t = .u ∨ t = .s

theorem clearE_e_of_integer {c : Cell} (h : IsInteger (clearE c).t) : (clearE c).e = 0#2 :=
  clearE_e (by simpa using h)

theorem cmpCell_e (p : Params) (lt : Bool) (a b : Cell) :
    IsInteger (cmpCell p lt a b).t → (cmpCell p lt a b).e = 0#2 := by
  unfold cmpCell
  cases p.cmpResult with
  | signed => exact fun _ => rfl
  | other => exact clearE_e_of_integer

/-- Both cells of an unsigned operation have `e` = 00, if they are integers. -/
theorem arithU_e (p : Params) (op : ArithOp) (a b : Cell) :
    (arithU p op a b).1.e = 0#2 ∧ (IsInteger (arithU p op a b).2.t → (arithU p op a b).2.e = 0#2) := by
  cases op with
  | cmp => exact ⟨rfl, cmpCell_e p _ a b⟩
  | _ => exact ⟨rfl, fun _ => rfl⟩

theorem arithS_e (p : Params) (op : ArithOp) (a b : Cell) :
    (arithS p op a b).1.e = 0#2 ∧ (IsInteger (arithS p op a b).2.t → (arithS p op a b).2.e = 0#2) := by
  cases op with
  | cmp => exact ⟨rfl, cmpCell_e p _ a b⟩
  | _ => exact ⟨rfl, fun _ => rfl⟩

theorem mixedResult_e (op : ArithOp) (a b : Cell) :
    (IsInteger (mixedResult op a b).1.t → (mixedResult op a b).1.e = 0#2) ∧
      ∀ c, (mixedResult op a b).2 = some c → IsInteger c.t → c.e = 0#2 := by
  refine ⟨clearE_e_of_integer, fun c hc h => ?_⟩
  obtain ⟨c', -, rfl⟩ := Option.map_eq_some_iff.mp hc
  exact clearE_e_of_integer h

/-- No operation of one integer type reads the exponent bits of an operand. -/
theorem arithU_setE (p : Params) (op : ArithOp) (a b : Cell) (e : BitVec 2) :
    arithU p op { a with e := e } b = arithU p op a b ∧ arithU p op a { b with e := e } = arithU p op a b := by
  cases op <;> exact ⟨rfl, rfl⟩

theorem arithS_setE (p : Params) (op : ArithOp) (a b : Cell) (e : BitVec 2) :
    arithS p op { a with e := e } b = arithS p op a b ∧ arithS p op a { b with e := e } = arithS p op a b := by
  cases op <;> exact ⟨rfl, rfl⟩

/-- MixedArith is shown no exponent bits of an integer. -/
theorem mixedResult_setE (op : ArithOp) (a b : Cell) (e : BitVec 2) :
    (IsInteger a.t → mixedResult op { a with e := e } b = mixedResult op a b) ∧
      (IsInteger b.t → mixedResult op a { b with e := e } = mixedResult op a b) := by
  constructor <;> intro h <;> rw [mixedResult, clearE_setE e h] <;> rfl

theorem arithResult_e {p : Params} {op : ArithOp} {a b : Cell} {r : Cell × Option Cell}
    (hab : a.t = b.t → IsInteger a.t) (hr : arithResult p op a b = .ok r) :
    (IsInteger r.1.t → r.1.e = 0#2) ∧ ∀ c, r.2 = some c → IsInteger c.t → c.e = 0#2 := by
  unfold arithResult at hr
  split at hr
  · next ht =>
    split at hr
    · obtain ⟨h1, h2⟩ := arithU_e p op a b
      cases hr
      exact ⟨fun _ => h1, fun c hc => Option.some.inj hc ▸ h2⟩
    · obtain ⟨h1, h2⟩ := arithS_e p op a b
      cases hr
      exact ⟨fun _ => h1, fun c hc => Option.some.inj hc ▸ h2⟩
    · next hb => obtain h | h := hab ht <;> rw [ht, hb] at h <;> cases h
    · next hb => obtain h | h := hab ht <;> rw [ht, hb] at h <;> cases h
  · split at hr
    · cases hr; exact mixedResult_e op a b
    · cases hr

theorem arithResult_setE_left (p : Params) (op : ArithOp) {a b : Cell} (e : BitVec 2) (h : IsInteger a.t) :
    arithResult p op { a with e := e } b = arithResult p op a b := by
  obtain ⟨hmix, -⟩ := mixedResult_setE op a b e
  unfold arithResult
  by_cases ht : a.t = b.t
  · rw [if_pos ht, if_pos ht, (arithU_setE p op a b e).1, (arithS_setE p op a b e).1]
    cases hb : b.t with
    | u | s => rfl
    | f | f2 => rw [ht, hb] at h; obtain h | h := h <;> cases h
  · rw [if_neg ht, if_neg ht, hmix h]

theorem arithResult_setE_right (p : Params) (op : ArithOp) {a b : Cell} (e : BitVec 2) (h : IsInteger b.t) :
    arithResult p op a { b with e := e } = arithResult p op a b := by
  obtain ⟨-, hmix⟩ := mixedResult_setE op a b e
  unfold arithResult
  by_cases ht : a.t = b.t
  · rw [if_pos ht, if_pos ht, (arithU_setE p op a b e).2, (arithS_setE p op a b e).2]
    cases hb : b.t with
    | u | s => rfl
    | f | f2 => rw [hb] at h; obtain h | h := h <;> cases h
  · rw [if_neg ht, if_neg ht, hmix h]

/-- Settles O60, by the type rule: one integer type, or two types and MixedArith. -/
theorem integerExponentBits : Obligations.IntegerExponentBits :=
  ⟨fun _ _ _ _ _ hab hr => arithResult_e hab hr, fun p op _ _ e h => arithResult_setE_left p op e h,
    fun p op _ _ e h => arithResult_setE_right p op e h⟩

end Sys2Proof.Laws.Arithmetic
end

section
/-! PROOFS. Branches, moves, logic, immediates, shift and extract (41_branch16.md, 42_alu16.md,
43_imm_shift_extract16.md, 47_alu24.md). -/

namespace Sys2Proof.Laws.Control

open Sys2Proof Sys2Proof.Machine Sys2Proof.Laws.Arithmetic

/-! ## Branches (41_branch16.md R95 to R100) -/

/-- The target of a branch is exact modulo 2^16. -/
theorem branchTarget_exact (p : Params) (npc n16 : Word) :
    branchTarget p npc n16 = BitVec.ofInt 16 (npc.toNat + p.branchScale.toNat * n16.toInt) := by
  rw [BitVec.ofInt_add, BitVec.ofInt_mul, BitVec.ofInt_natCast, BitVec.ofInt_natCast, BitVec.ofNat_toNat,
    BitVec.ofNat_toNat, BitVec.setWidth_eq, BitVec.setWidth_eq, BitVec.ofInt_toInt]
  rfl

/-- Settles O36: one register write, and the exact target. -/
theorem bsrnResult : Obligations.BsrnResult := by
  intro d n s
  refine ⟨_, rfl, fun hd => ?_, branchTarget_exact _ _ _, onlyRegs_writeReg_setPc s d _ _⟩
  rw [State.readReg_setPc]
  exact State.readReg_writeReg_self _ _ _ hd

section
variable {i : Instr} {s : State} {taken : Bool} {npc n16 : Word}

/-- A conditional branch that is taken. -/
theorem branch_taken (hx : exec i s = .next (s.setPc (branchPc taken s.params npc n16))) (ht : taken = true) :
    Completes i s fun t =>
      t.pc = BitVec.ofInt 16 (npc.toNat + s.params.branchScale.toNat * n16.toInt) ∧ OnlyRegs s t [] := by
  refine ⟨_, hx, ?_, onlyRegs_setPc s _⟩
  rw [State.setPc_pc, branchPc, if_pos ht, branchTarget_exact]

theorem branch_notTaken (hx : exec i s = .next (s.setPc (branchPc taken s.params npc n16))) (ht : taken = false) :
    Completes i s fun t => t.pc = npc ∧ OnlyRegs s t [] := by
  refine ⟨_, hx, ?_, onlyRegs_setPc s _⟩
  rw [State.setPc_pc, branchPc, if_neg (ne_true_of_eq_false ht)]

end

/-- `IsZero`: the data bits of an integer, FloatTest of a float (R95). -/
theorem isZero_iff (c : Cell) :
    isZero c = true ↔ if c.t = .u ∨ c.t = .s then c.v = 0#16 else (Config.floatTest c).1 = true := by
  unfold isZero
  cases c.t <;> simp

/-- `IsNeg`: the sign of type S, FloatTest of a float; type U never (R95). -/
theorem isNeg_iff (c : Cell) :
    isNeg c = true ↔ (c.t = .s ∧ c.v.toInt < 0) ∨ ((c.t = .f ∨ c.t = .f2) ∧ (Config.floatTest c).2 = true) := by
  unfold isNeg
  cases c.t <;> simp [BitVec.msb_eq_toInt]

/-- Settles O37: `zero` is the model's `isZero`, of which both branches are a case. -/
theorem zeroBranchesResult : Obligations.ZeroBranchesResult := by
  intro d n s zero hz
  have hiff : zero ↔ isZero (operand (.brzn d n) s d) = true := hz.trans (isZero_iff _).symm
  refine ⟨fun h => ?_, fun h => ?_, fun h => ?_, fun h => ?_⟩
  · exact branch_taken rfl (hiff.mp h)
  · exact branch_notTaken rfl (eq_false_of_ne_true (mt hiff.mpr h))
  · exact branch_taken (i := .brnzn d n) rfl (Bool.not_eq_true' _ |>.mpr (eq_false_of_ne_true (mt hiff.mpr h)))
  · exact branch_notTaken (i := .brnzn d n) rfl (congrArg Bool.not (hiff.mp h))

/-- Settles O38: `neg` is the model's `isNeg`, of which both branches are a case. -/
theorem signBranchesResult : Obligations.SignBranchesResult := by
  intro d n s neg hneg
  have hiff : neg ↔ isNeg (operand (.brpn d n) s d) = true := hneg.trans (isNeg_iff _).symm
  refine ⟨fun h => ?_, fun h => ?_, fun h => ?_, fun h => ?_⟩
  · exact branch_taken rfl (Bool.not_eq_true' _ |>.mpr (eq_false_of_ne_true (mt hiff.mpr h)))
  · exact branch_notTaken rfl (congrArg Bool.not (hiff.mp h))
  · exact branch_taken (i := .brmn d n) rfl (hiff.mp h)
  · exact branch_notTaken (i := .brmn d n) rfl (eq_false_of_ne_true (mt hiff.mpr h))

/-! ## Move and logic (42_alu16.md R107, R113 to R115, R121 to R123) -/

/-- Settles O39: the only check of MOV does not apply. -/
theorem movResult : Obligations.MovResult := by
  intro d r s h
  refine completes_of_ok rfl (if_neg ?_) (writesOrJumps_writeOrJump s d _ _)
  rintro ⟨hd, hf⟩
  obtain h | h | h := h
  · exact h hd
  · obtain hf | hf := hf <;> cases h.symm.trans hf
  · obtain hf | hf := hf <;> cases h.symm.trans hf

/-- A bitwise operation on the data, with the second operand's tag. -/
theorem logicCompletes {i : Instr} {s : State} {d : Reg} {f : Word → Word → Word} {a : Word} {b : Cell}
    (hx : exec i s = settle s (doLogic f d a b (npcOf i s) s)) : LogicCompletes i s d (f a b.v) b := by
  intro hd
  obtain ⟨-, h⟩ | ⟨h, -⟩ := doLogic_cases f d a b (npcOf i s) s
  · exact completes_of_ok hx h (writesD_writeReg_setPc s _ _ hd)
  · exact absurd h hd

/-- Settles O46: six uses of the one logical action. -/
theorem logicOfRegistersResult : Obligations.LogicOfRegistersResult := by
  refine ⟨fun d r s => ⟨?_, ?_, ?_⟩, fun d x r s => ⟨?_, ?_, ?_⟩⟩
  · exact logicCompletes (f := (· &&& ·)) rfl
  · exact logicCompletes (f := (· ||| ·)) rfl
  · exact logicCompletes (f := (· ^^^ ·)) rfl
  · exact logicCompletes (f := (· &&& ·)) rfl
  · exact logicCompletes (f := (· ||| ·)) rfl
  · exact logicCompletes (f := (· ^^^ ·)) rfl

/-- Settles O47: six uses of the one logical action. -/
theorem logicWithImmediateResult : Obligations.LogicWithImmediateResult := by
  refine ⟨fun d n s => ⟨?_, ?_, ?_⟩, fun d x n s => ⟨?_, ?_, ?_⟩⟩
  · exact logicCompletes (f := (· &&& ·)) rfl
  · exact logicCompletes (f := (· ||| ·)) rfl
  · exact logicCompletes (f := (· ^^^ ·)) rfl
  · exact logicCompletes (f := (· &&& ·)) rfl
  · exact logicCompletes (f := (· ||| ·)) rfl
  · exact logicCompletes (f := (· ^^^ ·)) rfl

/-! ## Constants, shift and extract (43_imm_shift_extract16.md) -/

/-- A cell written to a D that is not the PC. -/
theorem writeD_completes {i : Instr} {s : State} {d : Reg} {c : Cell}
    (hx : exec i s = settle s (writeD d c (npcOf i s) s)) (hd : d ≠ pcReg) :
    Completes i s fun t => WritesD s t (npcOf i s) d c := by
  refine completes_of_ok hx ?_ (writesD_writeReg_setPc s c _ hd)
  rw [writeD, rejectPc_ne hd]
  rfl

/-- Settles O48: a write that may jump, or one that may not. -/
theorem loadImmediateResult : Obligations.LoadImmediateResult := fun _ _ s =>
  ⟨⟨_, rfl, writesOrJumps_writeOrJump s _ _ _⟩, ⟨_, rfl, writesOrJumps_writeOrJump s _ _ _⟩,
    fun hd => ⟨writeD_completes rfl hd, writeD_completes rfl hd⟩⟩

/-- A left shift multiplies, whatever integer the pattern stands for. -/
theorem shiftLeft_exact {v : Word} {x : Int} (hx : BitVec.ofInt 16 x = v) (k : Nat) :
    v <<< k = BitVec.ofInt 16 (x * 2 ^ k) := by
  have hpow : BitVec.ofInt 16 (2 ^ k) = BitVec.twoPow 16 k := by
    apply BitVec.eq_of_toNat_eq
    rw [BitVec.toNat_twoPow, show (2 ^ k : Int) = ((2 ^ k : Nat) : Int) by simp, BitVec.ofInt_natCast,
      BitVec.toNat_ofNat]
  rw [BitVec.shiftLeft_eq_mul_twoPow, BitVec.ofInt_mul, hx, hpow]

/-- The logical shift scales the unsigned value (R134). -/
theorem shiftU_exact (v n16 : Word) : shiftU v n16 = scaledBy v.toNat n16.toInt := by
  unfold shiftU scaledBy
  split
  · exact shiftLeft_exact (by rw [BitVec.ofInt_natCast, BitVec.ofNat_toNat, BitVec.setWidth_eq]) _
  · generalize (-n16.toInt).toNat = k
    rw [show (2 ^ k : Int) = ((2 ^ k : Nat) : Int) by simp, ← Int.natCast_ediv, BitVec.ofInt_natCast]
    apply BitVec.eq_of_toNat_eq
    rw [BitVec.toNat_ushiftRight, BitVec.toNat_ofNat, Nat.shiftRight_eq_div_pow,
      Nat.mod_eq_of_lt (lt_of_le_of_lt (Nat.div_le_self _ _) v.isLt)]

/-- The arithmetic shift scales the signed value (R134). -/
theorem shiftS_exact (v n16 : Word) : shiftS v n16 = scaledBy v.toInt n16.toInt := by
  unfold shiftS scaledBy
  split
  · exact shiftLeft_exact BitVec.ofInt_toInt _
  · rw [BitVec.sshiftRight_eq, Int.shiftRight_eq_div_pow]
    simp

/-- Settles O49: by type, each shift is the exact scaling. -/
theorem shftnResult : Obligations.ShftnResult := by
  intro d n s hd
  have h : Completes (.shftn d n) s fun t =>
      WritesD s t (npcOf (.shftn d n) s) d (shiftCell (operand (.shftn d n) s d) (n16Of16 n)) :=
    writeD_completes rfl hd
  unfold shiftCell at h
  generalize operand (.shftn d n) s d = c at *
  cases ht : c.t <;> simpa only [ht, shiftU_exact, shiftS_exact] using h

/-! ### EXTCTN (R135) -/

theorem fieldStart_eq (n16 : Word) : fieldStart n16 = n16.toNat % 16 := by
  rw [fieldStart, BitVec.extractLsb'_toNat]; rfl

theorem fieldWidth_eq (n16 : Word) :
    fieldWidth n16 = if n16.toNat / 64 % 16 = 0 then 16 else n16.toNat / 64 % 16 := by
  rw [fieldWidth, BitVec.extractLsb'_toNat, Nat.shiftRight_eq_div_pow]

/-- The bits of the field that EXTCTN takes out. -/
theorem getLsbD_field (v : Word) (start width k : Nat) :
    ((v >>> start).extractLsb' 0 width).getLsbD k = (decide (k < width) && v.getLsbD (start + k)) := by
  rw [BitVec.getLsbD_extractLsb', BitVec.getLsbD_ushiftRight, Nat.zero_add]

/-- Below the width the field, above it the field's top bit for type S and zero for the others. -/
theorem getLsbD_extractCell (c : Cell) (n16 : Word) {k : Nat} (hk : k < 16) (hw : 0 < fieldWidth n16) :
    (extractCell c n16).v.getLsbD k =
      if k < fieldWidth n16 then c.v.getLsbD (fieldStart n16 + k)
      else c.t == .s && c.v.getLsbD (fieldStart n16 + fieldWidth n16 - 1) := by
  have hmsb : ((c.v >>> fieldStart n16).extractLsb' 0 (fieldWidth n16)).msb =
      c.v.getLsbD (fieldStart n16 + fieldWidth n16 - 1) := by
    rw [BitVec.msb_eq_getLsbD_last, getLsbD_field, decide_eq_true (by omega), Bool.true_and,
      Nat.add_sub_assoc hw]
  unfold extractCell
  cases ht : c.t with
  | s =>
    dsimp only
    rw [BitVec.getLsbD_signExtend, hmsb, getLsbD_field, decide_eq_true hk]
    split
    · next h => simp [h]
    · simp
  | u | f | f2 =>
    dsimp only
    rw [BitVec.getLsbD_setWidth, getLsbD_field, decide_eq_true hk]
    split
    · next h => simp [h]
    · next h => simp [h]

theorem extractCell_tag (c : Cell) (n16 : Word) : extractCell c n16 = ⟨(extractCell c n16).v, c.t, c.e⟩ := by
  unfold extractCell
  cases ht : c.t <;> rfl

/-- Settles O50: the cell is `extractCell`'s, read bit by bit. -/
theorem extctnResult : Obligations.ExtctnResult := by
  intro d n s hd
  have h : Completes (.extctn d n) s fun t =>
      WritesD s t (npcOf (.extctn d n) s) d (extractCell (operand (.extctn d n) s d) (n16Of16 n)) :=
    writeD_completes rfl hd
  obtain ⟨t, hx, ht⟩ := h
  rw [extractCell_tag] at ht
  refine ⟨t, hx, _, ht, fun start w width hs hw hwidth k hk => ?_⟩
  have hwidth' : width = fieldWidth (n16Of16 n) := by rw [hwidth, hw, fieldWidth_eq]
  have hpos : 0 < fieldWidth (n16Of16 n) := by rw [fieldWidth_eq]; split <;> omega
  rw [hwidth', hs, ← fieldStart_eq]
  exact getLsbD_extractCell _ _ hk hpos

end Sys2Proof.Laws.Control
end

section
/-! PROOFS. Memory and effective addresses (20_memory.md R43, R44, 45_ldst24.md R145, 46_ldst32.md R165). -/

namespace Sys2Proof.Laws.Access

open Sys2Proof Sys2Proof.Machine Sys2Proof.Laws.Arithmetic

/-! ## Memory (20_memory.md R43, R44) -/

theorem read_write (m : Memory) (a b : Word) (x : Byte) : (m.write a x).read b = if b = a then x else m.read b := by
  rw [Memory.write, Memory.read_insert]
  exact if_congr BitVec.toNat_inj rfl rfl

theorem word_add_ne_self {k : Word} (hk : k ≠ 0#16) (a : Word) : a + k ≠ a := by
  intro h
  exact hk (BitVec.add_right_eq_self.mp h)

theorem read_write16 (m : Memory) (a b v : Word) :
    (m.write16 a v).read b =
      if b = a then v.extractLsb' 0 8 else if b = a + 1#16 then v.extractLsb' 8 8 else m.read b := by
  rw [Memory.write16, read_write, read_write]
  by_cases h : b = a
  · rw [if_pos h, if_pos h, if_neg]
    rw [h]
    exact (word_add_ne_self (by decide) a).symm
  · rw [if_neg h, if_neg h]

/-- Settles O32: a lookup after one insertion, and after two. -/
theorem storedBytesReadBack : Obligations.StoredBytesReadBack := ⟨read_write, read_write16⟩

/-- A machine with another memory and pc: only the bytes where the memories differ are changed. -/
theorem onlyMem_setPc (s : State) {m : Memory} {l : List Word} (v : Word) (h : ∀ a, a ∉ l → m.read a = s.mem.read a) :
    OnlyMem s ({ s with mem := m }.setPc v) l :=
  ⟨fun _ _ _ => rfl, h, by simp [RestKept]⟩

theorem memKept_write16 (m : Memory) (a v : Word) {b : Word} (h : b ∉ [a, a + 1#16]) :
    (m.write16 a v).read b = m.read b := by
  simp only [List.mem_cons, List.not_mem_nil, or_false, not_or] at h
  obtain ⟨h0, h1⟩ := h
  rw [read_write16, if_neg h0, if_neg h1]

theorem load16_of_accessible {s : State} {a : Word} (h : Accessible16 s a) :
    s.load16 a = .ok (s.mem.read (a + 1#16) ++ s.mem.read a) := by
  obtain ⟨ha, hp, hp'⟩ := h
  exact State.load16_accessible ha hp hp'

theorem store16_of_accessible {s : State} {a : Word} (v : Word) (h : Accessible16 s a) :
    s.store16 a v = .ok { s with mem := s.mem.write16 a v } := by
  obtain ⟨ha, hp, hp'⟩ := h
  exact State.store16_accessible v ha hp hp'

/-! ## Effective addresses (45_ldst24.md R145, 46_ldst32.md R165) -/

theorem ofNat_toNat_word (v : Word) : BitVec.ofNat 16 v.toNat = v := by
  rw [BitVec.ofNat_toNat, BitVec.setWidth_eq]

theorem indexValue_eq (s : State) (npc : Word) (r : Reg) :
    indexValue s npc r = BitVec.ofNat 16 (if r = pcReg then 0 else (s.readReg npc r).v.toNat) := by
  unfold indexValue
  split
  · rfl
  · rw [ofNat_toNat_word]

theorem scaleOf_eq (y1 : BitVec 2) : scaleOf y1 = BitVec.ofNat 16 (y1.toNat + 1) := by
  rw [scaleOf, BitVec.ofNat_add, BitVec.ofNat_toNat]

theorem signExtend_eq_ofInt {n : Nat} (x : BitVec n) : x.signExtend 16 = BitVec.ofInt 16 x.toInt := rfl

/-- Base plus scaled index, exactly. -/
theorem base_index_exact (s : State) (npc ds : Word) (x r : Reg) (y1 : BitVec 2) :
    (s.readReg npc x).v + indexValue s npc r * ds * scaleOf y1 =
      BitVec.ofNat 16 ((s.readReg npc x).v.toNat +
        (if r = pcReg then 0 else (s.readReg npc r).v.toNat) * ds.toNat * (y1.toNat + 1)) := by
  rw [BitVec.ofNat_add, BitVec.ofNat_mul, BitVec.ofNat_mul, ofNat_toNat_word, ofNat_toNat_word, indexValue_eq,
    scaleOf_eq]

/-- Base plus signed offset, exactly. -/
theorem base_offset_exact (v off : Word) (n : Int) (h : off = BitVec.ofInt 16 n) :
    v + off = BitVec.ofInt 16 (v.toNat + n) := by
  rw [BitVec.ofInt_add, BitVec.ofInt_natCast, ofNat_toNat_word, h]

/-- Settles O33: addition and multiplication of words are exact modulo 2^16. -/
theorem effectiveAddresses : Obligations.EffectiveAddresses := by
  refine ⟨fun s npc ds x r => ?_, fun s npc ds x n => ?_, fun s npc ds x n => ?_, fun s npc ds x r t y1 ht => ?_,
    fun s npc ds x r y1 n => ?_⟩
  · rw [BitVec.ofNat_add, BitVec.ofNat_mul, ofNat_toNat_word, ofNat_toNat_word, ← indexValue_eq]; rfl
  · exact base_offset_exact _ _ _ (signExtend_eq_ofInt n)
  · exact base_offset_exact _ _ _ (signExtend_eq_ofInt n)
  · rw [ea32_reg s npc ds x r y1 ht, base_index_exact, BitVec.ofNat_add _ (s.readReg npc t).v.toNat,
      ofNat_toNat_word (s.readReg npc t).v]
  · rw [ea32_imm, base_index_exact, ← Int.natCast_add, BitVec.ofInt_add, BitVec.ofInt_natCast]; rfl

end Sys2Proof.Laws.Access
end

section
/-! PROOFS. Ports, internal registers and typed data (40_io.md R90, R91, 44_typed_ldst16.md R140 to R142). -/

namespace Sys2Proof.Laws.Access

open Sys2Proof Sys2Proof.Machine Sys2Proof.Laws.Arithmetic

section
variable (d : Reg) (n : Imm16) (s : State)

/-! ## INN and OUTN -/

theorem exec_inn_port {k : Fin 16} (hd : d ≠ pcReg) (h : ioTarget (n16Of16 n) = .port k) :
    exec (.inn d n) s =
      .next (((s.portIn k).2.writeReg d ⟨(s.portIn k).1, .u, 0#2⟩).setPc (npcOf (.inn d n) s)) := by
  rw [exec, execInn, rejectPc_ne hd, h]; rfl

theorem exec_inn_ireg {k : Fin 15} (hd : d ≠ pcReg) (h : ioTarget (n16Of16 n) = .ireg k) :
    exec (.inn d n) s = .next ((s.writeReg d ⟨s.readIreg k, .u, 0#2⟩).setPc (npcOf (.inn d n) s)) := by
  rw [exec, execInn, rejectPc_ne hd, h]; rfl

theorem exec_inn_memory {a : Word} (hd : d ≠ pcReg) (h : ioTarget (n16Of16 n) = .memory a) :
    exec (.inn d n) s =
      settle s (s.load16 a >>= fun v => pure ((s.writeReg d ⟨v, .u, 0#2⟩).setPc (npcOf (.inn d n) s))) := by
  rw [exec, execInn, rejectPc_ne hd, h]; rfl

theorem exec_outn_port {k : Fin 16} (h : ioTarget (n16Of16 n) = .port k) :
    exec (.outn d n) s = .next ((s.portOut k (operand (.outn d n) s d).v).setPc (npcOf (.outn d n) s)) := by
  rw [exec, execOutn, h]; rfl

theorem exec_outn_ireg {k : Fin 15} (h : ioTarget (n16Of16 n) = .ireg k) :
    exec (.outn d n) s = .next ((s.writeIreg k (operand (.outn d n) s d).v).setPc (npcOf (.outn d n) s)) := by
  rw [exec, execOutn, h]; rfl

theorem exec_outn_memory {a : Word} (h : ioTarget (n16Of16 n) = .memory a) :
    exec (.outn d n) s = settle s (s.store16 a (operand (.outn d n) s d).v >>= fun t =>
      pure (t.setPc (npcOf (.outn d n) s))) := by
  rw [exec, execOutn, h]; rfl

end

/-- Settles O34, by what N names. -/
theorem innResult : Obligations.InnResult := by
  intro d n s hd
  refine ⟨fun k h => ?_, fun k h => ?_, fun h hacc => ?_⟩
  · refine ⟨_, exec_inn_port d n s hd (ioTarget_port h), ?_, rfl, rfl, ?_⟩
    · rw [State.readReg_setPc]; exact State.readReg_writeReg_self _ _ _ hd
    · exact onlyRegs_writeReg_setPc s d _ _
  · exact ⟨_, exec_inn_ireg d n s hd (ioTarget_ireg h), writesD_writeReg_setPc s _ _ hd⟩
  · refine completes_of_ok (exec_inn_memory d n s hd (ioTarget_memory h)) ?_ (writesD_writeReg_setPc s _ _ hd)
    rw [load16_of_accessible hacc]; rfl

/-- What a half-word store and a new pc leave. -/
theorem stored16 (s : State) (a v npc : Word) :
    let t := { s with mem := s.mem.write16 a v }.setPc npc
    t.mem.read a = v.extractLsb' 0 8 ∧ t.mem.read (a + 1#16) = v.extractLsb' 8 8 ∧ t.pc = npc ∧
      OnlyMem s t [a, a + 1#16] := by
  refine ⟨?_, ?_, rfl, onlyMem_setPc s _ fun b hb => memKept_write16 _ _ _ hb⟩
  · rw [State.setPc_mem, read_write16, if_pos rfl]
  · rw [State.setPc_mem, read_write16, if_neg (word_add_ne_self (by decide) a), if_pos rfl]

/-- Settles O35, by what N names. -/
theorem outnResult : Obligations.OutnResult := by
  intro d n s
  refine ⟨fun k h => ?_, fun k h => ?_, fun h hacc => ?_⟩
  · exact ⟨_, exec_outn_port d n s (ioTarget_port h), rfl, rfl, onlyRegs_setPc s _⟩
  · refine ⟨_, exec_outn_ireg d n s (ioTarget_ireg h), ?_, fun j hj => ?_, rfl, onlyRegs_setPc s _⟩
    · simpa using lt_of_le_of_lt (Nat.mod_le _ _) (operand (.outn d n) s d).v.isLt
    · have hne : (Params.iregPlace s.params k).val ≠ j.val := fun e => hj (Fin.ext e).symm
      simp [Vector.getElem_set_ne, hne]
  · refine completes_of_ok (exec_outn_memory d n s (ioTarget_memory h)) ?_ (stored16 s _ _ _)
    rw [store16_of_accessible _ hacc]; rfl

/-! ## LDTN and STTN -/

/-- The bits of the tag half word that LDTN reads, in the byte at N + 2 (R140). -/
theorem tag_of_halves (lo hi : Byte) :
    (hi ++ lo).extractLsb' 0 2 = lo.extractLsb' 0 2 ∧ (hi ++ lo).extractLsb' 2 2 = lo.extractLsb' 2 2 := by
  constructor <;> simp only [BitVec.extractLsb'_append_eq_ite] <;> simp

theorem exec_ldtn {d : Reg} {n : Imm16} {s : State} (hd : d ≠ pcReg) (h : Accessible16 s (n16Of16 n))
    (h' : Accessible16 s (n16Of16 n + 2#16)) :
    exec (.ldtn d n) s = .next ((s.writeReg d (cellOfHalves s.params
      (s.mem.read (n16Of16 n + 1#16) ++ s.mem.read (n16Of16 n))
      (s.mem.read (n16Of16 n + 2#16 + 1#16) ++ s.mem.read (n16Of16 n + 2#16)))).setPc (npcOf (.ldtn d n) s)) := by
  rw [exec, execLdtn, rejectPc_ne hd, load16_of_accessible h, load16_of_accessible h']; rfl

/-- Settles O51: the type is the one that the code read names. -/
theorem ldtnResult : Obligations.LdtnResult := by
  intro d n s hd h h'
  refine ⟨_, exec_ldtn hd h h', tyOfBits s.params ((s.mem.read (n16Of16 n + 2#16)).extractLsb' 0 2),
    bitsOfTy_tyOfBits _ _, ?_⟩
  have hw := writesD_writeReg_setPc s (cellOfHalves s.params
    (s.mem.read (n16Of16 n + 1#16) ++ s.mem.read (n16Of16 n))
    (s.mem.read (n16Of16 n + 2#16 + 1#16) ++ s.mem.read (n16Of16 n + 2#16))) (npcOf (.ldtn d n) s) hd
  obtain ⟨hty, he⟩ := tag_of_halves (s.mem.read (n16Of16 n + 2#16)) (s.mem.read (n16Of16 n + 2#16 + 1#16))
  rw [cellOfHalves, hty, he] at hw ⊢
  exact hw

/-- The memory that STTN leaves (R141). -/
def typedStore (m : Memory) (p : Params) (a : Word) (c : Cell) : Memory :=
  (m.write16 a c.v).write16 (a + 2#16) (tagHalf p c)

theorem exec_sttn {d : Reg} {n : Imm16} {s : State} (h : Accessible16 s (n16Of16 n))
    (h' : Accessible16 s (n16Of16 n + 2#16)) :
    exec (.sttn d n) s = .next ({ s with
      mem := typedStore s.mem s.params (n16Of16 n) (operand (.sttn d n) s d) }.setPc (npcOf (.sttn d n) s)) := by
  have hacc : ∀ m, Accessible16 { s with mem := m } (n16Of16 n + 2#16) := fun _ => h'
  rw [exec, execSttn, store16_of_accessible _ h]
  dsimp only [bind, Except.bind]
  rw [store16_of_accessible _ (hacc _)]
  rfl

/-- The tag half word: the type code in bits 1:0, the exponent bits in bits 3:2, zeros above (R142). -/
theorem tagHalf_bytes (p : Params) (c : Cell) :
    (tagHalf p c).extractLsb' 0 8 = 0#4 ++ c.e ++ bitsOfTy p c.t ∧ (tagHalf p c).extractLsb' 8 8 = 0#8 := by
  unfold tagHalf
  constructor <;> refine BitVec.eq_of_getLsbD_eq fun k hk => ?_ <;>
    simp only [BitVec.getLsbD_extractLsb', BitVec.getLsbD_setWidth, BitVec.getLsbD_append, BitVec.getLsbD_zero] <;>
    interval_cases k <;> simp

section
variable (m : Memory) (p : Params) (a : Word) (c : Cell)

/-- What STTN leaves at each of its four addresses. -/
theorem read_typedStore :
    (typedStore m p a c).read a = c.v.extractLsb' 0 8 ∧ (typedStore m p a c).read (a + 1#16) = c.v.extractLsb' 8 8 ∧
      (typedStore m p a c).read (a + 2#16) = 0#4 ++ c.e ++ bitsOfTy p c.t ∧
        (typedStore m p a c).read (a + 3#16) = 0#8 := by
  obtain ⟨hlo, hhi⟩ := tagHalf_bytes p c
  unfold typedStore
  simp only [read_write16, hlo, hhi]
  have h01 : a + 1#16 ≠ a := word_add_ne_self (by decide) a
  have h02 : a ≠ a + 2#16 := (word_add_ne_self (by decide) a).symm
  have h03 : a ≠ a + 2#16 + 1#16 := by bv_omega
  have h12 : a + 1#16 ≠ a + 2#16 := by bv_omega
  have h13 : a + 1#16 ≠ a + 2#16 + 1#16 := by bv_omega
  have h32 : a + 3#16 ≠ a + 2#16 := by bv_omega
  have h33 : a + 3#16 = a + 2#16 + 1#16 := by bv_omega
  refine ⟨?_, ?_, ?_, ?_⟩
  · rw [if_neg h02, if_neg h03, if_pos trivial]
  · rw [if_neg h12, if_neg h13, if_neg h01, if_pos trivial]
  · rw [if_pos trivial]
  · rw [if_neg h32, if_pos h33]

theorem read_typedStore_ne {b : Word} (hb : b ∉ [a, a + 1#16, a + 2#16, a + 3#16]) :
    (typedStore m p a c).read b = m.read b := by
  have h3 : a + 2#16 + 1#16 = a + 3#16 := by bv_omega
  simp only [List.mem_cons, List.not_mem_nil, or_false, not_or] at hb
  obtain ⟨h0, h1, h2, h3'⟩ := hb
  rw [typedStore, memKept_write16, memKept_write16] <;> simp [*]

end

/-- Settles O52: two half-word stores, read back at their four addresses. -/
theorem sttnResult : Obligations.SttnResult := by
  intro d n s h h'
  obtain ⟨h0, h1, h2, h3⟩ := read_typedStore s.mem s.params (n16Of16 n) (operand (.sttn d n) s d)
  exact ⟨_, exec_sttn h h', h0, h1, h2, h3, rfl, onlyMem_setPc s _ fun b hb => read_typedStore_ne _ _ _ _ hb⟩

/-- The two bytes of a half word. -/
theorem append_bytes (v : Word) : v.extractLsb' 8 8 ++ v.extractLsb' 0 8 = v := by
  refine BitVec.eq_of_getLsbD_eq fun k hk => ?_
  simp only [BitVec.getLsbD_append, BitVec.getLsbD_extractLsb']
  interval_cases k <;> simp

/-- The half words that STTN writes are, read back, the cell (R141). -/
theorem cellOfHalves_typed (p : Params) (c : Cell) (hi : Byte) :
    cellOfHalves p (c.v.extractLsb' 8 8 ++ c.v.extractLsb' 0 8) (hi ++ (0#4 ++ c.e ++ bitsOfTy p c.t)) = c := by
  have ht : (0#4 ++ c.e ++ bitsOfTy p c.t).extractLsb' 0 2 = bitsOfTy p c.t := by
    simp only [BitVec.extractLsb'_append_eq_ite]; simp
  have he : (0#4 ++ c.e ++ bitsOfTy p c.t).extractLsb' 2 2 = c.e := by
    simp only [BitVec.extractLsb'_append_eq_ite]; simp
  obtain ⟨hty, hex⟩ := tag_of_halves (0#4 ++ c.e ++ bitsOfTy p c.t) hi
  rw [cellOfHalves, append_bytes, hty, hex, ht, he, tyOfBits_bitsOfTy]

/-- Settles O53: LDTN reads the bytes that STTN left, and TYCODE is one-to-one. -/
theorem typedStoreThenLoadRestores : Obligations.TypedStoreThenLoadRestores := by
  intro d d' n n' s hn hd h h'
  refine ⟨_, exec_sttn h h', ?_⟩
  rw [← hn] at h h'
  refine ⟨_, exec_ldtn hd h h', fun npc => ?_⟩
  obtain ⟨h0, h1, h2, -⟩ := read_typedStore s.mem s.params (n16Of16 n) (operand (.sttn d n) s d)
  rw [State.readReg_setPc, State.readReg_writeReg_self _ _ _ hd, hn, State.setPc_mem, h0, h1, h2]
  exact cellOfHalves_typed _ _ _

end Sys2Proof.Laws.Access
end

section
/-! PROOFS. The loads, LEAs and stores of the 24- and 32-bit formats (45_ldst24.md, 46_ldst32.md). -/

namespace Sys2Proof.Laws.Access

open Sys2Proof Sys2Proof.Machine Sys2Proof.Laws.Arithmetic
open Sys2Proof.Laws.Effects (loadByte)

section
variable {i : Instr} {s : State} {d : Reg} {ea : Except Stop Word}

/-! ## What each shared action does where its access is allowed -/

theorem loadByte_completes {conv : Byte → Cell} (hx : exec i s = settle s (loadByte conv d ea (npcOf i s) s)) :
    Load8Completes i s d ea conv := by
  rintro a rfl hd hp
  refine completes_of_ok hx ?_ (writesD_writeReg_setPc s _ _ hd)
  rw [loadByte, rejectPc_ne hd]
  dsimp only [bind, Except.bind]
  rw [State.load8_present hp]
  rfl

theorem doLd16_completes {t : Ty} (hx : exec i s = settle s (doLd16 t d ea (npcOf i s) s)) :
    Load16Completes i s d ea t := by
  rintro a rfl hacc
  refine completes_of_ok hx ?_ (writesOrJumps_writeOrJump s d _ _)
  dsimp only [doLd16, bind, Except.bind]
  rw [load16_of_accessible hacc]
  rfl

theorem doFld16_completes {t : FloatTy} (hx : exec i s = settle s (doFld16 t d ea (npcOf i s) s)) :
    LoadFloat16Completes i s d ea t := by
  rintro a rfl hd hacc
  refine completes_of_ok hx ?_ (writesD_writeReg_setPc s _ _ hd)
  rw [doFld16, rejectPc_ne hd]
  dsimp only [bind, Except.bind]
  rw [load16_of_accessible hacc]
  rfl

theorem doLea_completes (hx : exec i s = settle s (doLea d ea (npcOf i s) s)) : LeaCompletes i s d ea := by
  rintro a rfl
  exact completes_of_ok hx rfl (writesOrJumps_writeOrJump s d _ _)

theorem doSt8_completes (hx : exec i s = settle s (doSt8 d ea (npcOf i s) s)) : Store8Completes i s d ea := by
  rintro a rfl hp
  have hok : doSt8 d (.ok a) (npcOf i s) s =
      .ok ({ s with mem := s.mem.write a (storeData8 (operand i s d)) }.setPc (npcOf i s)) := by
    dsimp only [doSt8, bind, Except.bind]
    rw [State.store8_present _ hp]
    rfl
  refine completes_of_ok hx hok ⟨?_, rfl, onlyMem_setPc s _ fun b hb => ?_⟩
  · rw [State.setPc_mem, read_write, if_pos rfl]
  · rw [read_write, if_neg (by simpa using hb)]

theorem doSt16_completes (hx : exec i s = settle s (doSt16 d ea (npcOf i s) s)) : Store16Completes i s d ea := by
  rintro a rfl hacc
  refine completes_of_ok hx ?_ (stored16 s a _ _)
  dsimp only [doSt16, bind, Except.bind]
  rw [store16_of_accessible _ hacc]
  rfl

end

/-- Settles O54: all eight are the one byte load. -/
theorem byteLoadsResult : Obligations.ByteLoadsResult :=
  ⟨fun _ _ _ => ⟨loadByte_completes rfl, loadByte_completes rfl, loadByte_completes rfl, loadByte_completes rfl⟩,
    fun _ _ _ => ⟨loadByte_completes rfl, loadByte_completes rfl, loadByte_completes rfl, loadByte_completes rfl⟩⟩

/-- Settles O55: all four run `doLd16`. -/
theorem halfWordLoadsResult : Obligations.HalfWordLoadsResult :=
  ⟨fun _ _ _ => ⟨doLd16_completes rfl, doLd16_completes rfl⟩, fun _ _ _ => ⟨doLd16_completes rfl, doLd16_completes rfl⟩⟩

/-- Settles O56: all four run `doFld16`. -/
theorem floatHalfWordLoadsResult : Obligations.FloatHalfWordLoadsResult :=
  ⟨fun _ _ _ => ⟨doFld16_completes rfl, doFld16_completes rfl⟩,
    fun _ _ _ => ⟨doFld16_completes rfl, doFld16_completes rfl⟩⟩

/-- Settles O57: all four run `doLea`. -/
theorem leaResult : Obligations.LeaResult :=
  ⟨fun _ _ _ => ⟨doLea_completes rfl, doLea_completes rfl⟩, fun _ _ _ => ⟨doLea_completes rfl, doLea_completes rfl⟩⟩

/-- Settles O58: a byte or a half word stored, read back. -/
theorem storesResult : Obligations.StoresResult :=
  ⟨fun _ _ _ => ⟨doSt8_completes rfl, doSt16_completes rfl⟩, fun _ _ _ => ⟨doSt8_completes rfl, doSt16_completes rfl⟩⟩

end Sys2Proof.Laws.Access
end

section
/-! PROOFS. The halts of data accesses, and of the PC where it is not allowed (60_exceptions.md R294, R295). -/

namespace Sys2Proof.Laws.Access

open Sys2Proof Sys2Proof.Machine Sys2Proof.Laws.Arithmetic

/-! ## A half word at an odd address (20_memory.md R46) -/

section
variable {i : Instr} {s : State} {d : Reg} {npc a : Word} (hp : s.params.misalignedData = .halt)
  (ho : a.getLsbD 0 = true)
include hp ho

theorem doLd16_odd (t : Ty) : doLd16 t d (.ok a) npc s = .error (.halt .misalignedData) := by
  dsimp only [doLd16, bind, Except.bind]
  rw [State.load16_odd ho hp]

theorem doFld16_odd (t : FloatTy) (hd : d ≠ pcReg) :
    doFld16 t d (.ok a) npc s = .error (.halt .misalignedData) := by
  rw [doFld16, rejectPc_ne hd]
  dsimp only [bind, Except.bind]
  rw [State.load16_odd ho hp]

theorem doSt16_odd : doSt16 d (.ok a) npc s = .error (.halt .misalignedData) := by
  dsimp only [doSt16, bind, Except.bind]
  rw [State.store16_odd _ ho hp]

end

section
variable {s : State} (hp : s.params.misalignedData = .halt)
include hp

theorem inn_outn_odd (d : Reg) (n : Imm16) (hn : (n16Of16 n).toInt < -15 ∨ 15 < (n16Of16 n).toInt)
    (ho : (n16Of16 n).getLsbD 0 = true) :
    HaltsWith (.outn d n) s .misalignedData ∧ (d ≠ pcReg → HaltsWith (.inn d n) s .misalignedData) := by
  refine ⟨haltsWith_of_error (exec_outn_memory d n s (ioTarget_memory hn)) ?_, fun hd =>
    haltsWith_of_error (exec_inn_memory d n s hd (ioTarget_memory hn)) ?_⟩
  · rw [State.store16_odd _ ho hp]; rfl
  · rw [State.load16_odd ho hp]; rfl

theorem ldtn_sttn_odd (d : Reg) (n : Imm16) (ho : (n16Of16 n).getLsbD 0 = true) :
    HaltsWith (.sttn d n) s .misalignedData ∧ (d ≠ pcReg → HaltsWith (.ldtn d n) s .misalignedData) := by
  refine ⟨?_, fun hd => ?_⟩
  · rw [HaltsWith, exec, execSttn, State.store16_odd _ ho hp]; rfl
  · rw [HaltsWith, exec, execLdtn, rejectPc_ne hd, State.load16_odd ho hp]; rfl

end

/-- Settles O31: the alignment check comes before any byte moves. -/
theorem oddDataAddressHalts : Obligations.OddDataAddressHalts := by
  intro s hp
  refine ⟨inn_outn_odd hp, ldtn_sttn_odd hp, fun d a ho => ?_, fun d a e he ho => ?_⟩
  · exact ⟨haltsWith_of_error rfl (doLd16_odd hp ho .u), haltsWith_of_error rfl (doLd16_odd hp ho .s),
      haltsWith_of_error rfl (doSt16_odd hp ho), fun hd =>
        ⟨haltsWith_of_error rfl (doFld16_odd hp ho .f hd), haltsWith_of_error rfl (doFld16_odd hp ho .f2 hd)⟩⟩
  · have hld : ∀ t, doLd16 t d (ea32 s (npcOf (.ldu16_32 d a) s) 2#16 a) (npcOf (.ldu16_32 d a) s) s =
        .error (.halt .misalignedData) := fun t => by rw [he]; exact doLd16_odd hp ho t
    have hfld : ∀ t, d ≠ pcReg → doFld16 t d (ea32 s (npcOf (.ldu16_32 d a) s) 2#16 a) (npcOf (.ldu16_32 d a) s) s =
        .error (.halt .misalignedData) := fun t hd => by rw [he]; exact doFld16_odd hp ho t hd
    have hst : doSt16 d (ea32 s (npcOf (.ldu16_32 d a) s) 2#16 a) (npcOf (.ldu16_32 d a) s) s =
        .error (.halt .misalignedData) := by rw [he]; exact doSt16_odd hp ho
    exact ⟨haltsWith_of_error rfl (hld .u), haltsWith_of_error rfl (hld .s), haltsWith_of_error rfl hst, fun hd =>
      ⟨haltsWith_of_error rfl (hfld .f hd), haltsWith_of_error rfl (hfld .f2 hd)⟩⟩

/-! ## The PC where it is not allowed (10_state.md R21, R22) -/

/-- These instructions reject D = 31 before anything else. -/
theorem noPcDest_halts {i : Instr} (s : State) (h : noPcDestOf i = some pcReg) : HaltsWith i s .invalidOperand := by
  cases i with
  | inn d _ | ldfi d _ | ldf2i d _ | shftn d _ | extctn d _ | ldtn d _ => cases h; rfl
  | sub d _ | subi d _ | and d _ | andi d _ | or d _ | ori d _ | xor d _ | xori d _ => cases h; rfl
  | sub_24 d _ _ | subi_24 d _ _ | and_24 d _ _ | andi_24 d _ _ => cases h; rfl
  | or_24 d _ _ | ori_24 d _ _ | xor_24 d _ _ | xori_24 d _ _ => cases h; rfl
  | ldu8_24 d _ | lds8_24 d _ | fld8_24 d _ | fld16_24 d _ | f2ld8_24 d _ | f2ld16_24 d _ => cases h; rfl
  | ldu8_32 d _ | lds8_32 d _ | fld8_32 d _ | fld16_32 d _ | f2ld8_32 d _ | f2ld16_32 d _ => cases h; rfl
  | _ => cases h

theorem mov_float_halts {r : Reg} {s : State}
    (h : (operand (.mov pcReg r) s r).t = .f ∨ (operand (.mov pcReg r) s r).t = .f2) :
    HaltsWith (.mov pcReg r) s .invalidOperand :=
  haltsWith_of_error rfl (if_pos ⟨rfl, h⟩)

/-- A check of D and a bad address stop alike, whichever comes first. -/
theorem rejectPc_bind_error {α : Type} (d : Reg) :
    (rejectPc d >>= fun _ => (.error (.halt .invalidOperand) : Except Stop α)) = .error (.halt .invalidOperand) := by
  by_cases hd : d = pcReg
  · rw [hd]; rfl
  · rw [rejectPc_ne hd]; rfl

/-- The PC as offset register T. -/
theorem offsetPc_halts {i : Instr} {a : Addr32} (s : State) (ha : addr32Of i = some a) (hx : a.x = .reg pcReg) :
    HaltsWith i s .invalidOperand := by
  have hea : ∀ npc ds, ea32 s npc ds a = .error (.halt .invalidOperand) := by
    obtain ⟨x, r, y1, off⟩ := a
    cases hx
    exact fun npc ds => ea32_reg_pc s npc ds x r y1
  cases i with
  | ldu8_32 d _ | lds8_32 d _ | fld8_32 d _ | fld16_32 d _ | f2ld8_32 d _ | f2ld16_32 d _ =>
    cases ha
    refine haltsWith_of_error rfl ?_
    rw [hea]
    exact rejectPc_bind_error d
  | ldu16_32 d _ | lds16_32 d _ | lea8_32 d _ | lea16_32 d _ | st8_32 d _ | st16_32 d _ =>
    cases ha
    refine haltsWith_of_error rfl ?_
    rw [hea]
    rfl
  | _ => cases ha

/-- Settles O28, by its three clauses. -/
theorem invalidUsesOfThePcHalt : Obligations.InvalidUsesOfThePcHalt :=
  ⟨fun _ s h => noPcDest_halts s h, fun _ _ h => mov_float_halts h, fun _ _ s ha hx => offsetPc_halts s ha hx⟩

end Sys2Proof.Laws.Access
end
